-- ==== Sys2Proof/Word.lean ====
section
/-!
DEFINITION. The machine's plain words: bytes, 16-bit words, 12-bit addresses, register and key numbers
(spec/10_state.md R10, R12, R13; spec/30_encoding.md R47, R49).
-/

namespace Sys2Proof

/-- A byte: a general register, a timer, a cell of `MEM` (R10, R15, R30). -/
abbrev Byte := BitVec 8

/-- A 16-bit word: `I`, `pc`, a stack entry, an instruction word (R12, R13, R14, R46). -/
abbrev Word := BitVec 16

/-- The 12-bit address field `nnn` (R47, R49). -/
abbrev Addr := BitVec 12

/-- A value 0..15: a register number `x` or `y`, the row count `n`, a key number (R18, R47, R49). -/
abbrev Nibble := Fin 16

/-- `VF`, the flag register, is `V[15]` (R11). -/
abbrev vF : Nibble := 15

end Sys2Proof
end

