-- ==== Sys2Proof/Syntax.lean ====
section
/-!
DEFINITION. The 34 instructions of spec/30_encoding.md R51, one constructor per row of spec/opcode_table.json, with the
operands R47 to R49 give each.
-/

namespace Sys2Proof

/-- An instruction. Each constructor is named after its row's mnemonic; the four-digit pattern is the spec's primary name
(R55). Operand types are exactly the fields' ranges (R49), so no operand out of range can be written. -/
inductive Instr where
  /-- `00E0` clear display (R105) -/
  | cls
  /-- `00EE` return (R71) -/
  | ret
  /-- `1nnn` jump (R72) -/
  | jpNnn (nnn : Addr)
  /-- `2nnn` call (R74) -/
  | callNnn (nnn : Addr)
  /-- `3xkk` skip if equal to immediate (R75) -/
  | seVxKk (x : Nibble) (kk : Byte)
  /-- `4xkk` skip if not equal to immediate (R76) -/
  | sneVxKk (x : Nibble) (kk : Byte)
  /-- `5xy0` skip if equal (R77) -/
  | seVxVy (x y : Nibble)
  /-- `6xkk` load immediate (R81) -/
  | ldVxKk (x : Nibble) (kk : Byte)
  /-- `7xkk` add immediate, no flag (R82) -/
  | addVxKk (x : Nibble) (kk : Byte)
  /-- `8xy0` copy (R83) -/
  | ldVxVy (x y : Nibble)
  /-- `8xy1` or, clears `VF` (R84) -/
  | orVxVy (x y : Nibble)
  /-- `8xy2` and, clears `VF` (R85) -/
  | andVxVy (x y : Nibble)
  /-- `8xy3` exclusive or, clears `VF` (R86) -/
  | xorVxVy (x y : Nibble)
  /-- `8xy4` add with carry out (R87) -/
  | addVxVy (x y : Nibble)
  /-- `8xy5` subtract (R88) -/
  | subVxVy (x y : Nibble)
  /-- `8xy6` copy then shift right (R89) -/
  | shrVxVy (x y : Nibble)
  /-- `8xy7` reverse subtract (R90) -/
  | subnVxVy (x y : Nibble)
  /-- `8xyE` copy then shift left (R91) -/
  | shlVxVy (x y : Nibble)
  /-- `9xy0` skip if not equal (R78) -/
  | sneVxVy (x y : Nibble)
  /-- `Annn` load index (R95) -/
  | ldINnn (nnn : Addr)
  /-- `Bnnn` jump with offset `V0` (R73) -/
  | jpV0Nnn (nnn : Addr)
  /-- `Cxkk` masked random byte (R92) -/
  | rndVxKk (x : Nibble) (kk : Byte)
  /-- `Dxyn` draw sprite (R106) -/
  | drwVxVyN (x y n : Nibble)
  /-- `Ex9E` skip if key down (R115) -/
  | skpVx (x : Nibble)
  /-- `ExA1` skip if key up (R116) -/
  | sknpVx (x : Nibble)
  /-- `Fx07` read delay timer (R118) -/
  | ldVxDt (x : Nibble)
  /-- `Fx0A` wait for a key press (R117) -/
  | ldVxK (x : Nibble)
  /-- `Fx15` write delay timer (R119) -/
  | ldDtVx (x : Nibble)
  /-- `Fx18` write sound timer (R120) -/
  | ldStVx (x : Nibble)
  /-- `Fx1E` add to index (R96) -/
  | addIVx (x : Nibble)
  /-- `Fx29` font address (R97) -/
  | ldFVx (x : Nibble)
  /-- `Fx33` store decimal digits (R98) -/
  | ldBVx (x : Nibble)
  /-- `Fx55` store registers (R99) -/
  | ldMemVx (x : Nibble)
  /-- `Fx65` load registers (R100) -/
  | ldVxMem (x : Nibble)
  deriving DecidableEq, Repr

end Sys2Proof
end

