-- ==== Sys2Proof/WellFormed.lean ====
section
/-!
DEFINITION. Well-formedness of an instruction. That an operand fits its field (R47, R49) is carried by the operand's type,
so every term of `Instr` has an encoding and no check is left to make there. What is left is the source's own notion: a
well-formed program does not use `VF` as general storage (spec/00_scope.md R9, spec/10_state.md R11, 93 U8).
-/

namespace Sys2Proof

/-- Neither register operand is `VF`. -/
def sparesVF (x y : Nibble) : Bool := x != vF && y != vF

/-- The instruction does not name `VF` as an operand while it also writes `VF` as a flag (U8). The hardware executes the
others as well, with the results D9 and D10 give them: nothing in the machine asks for this check. It is the premise
`x != F and y != F` that a claim may add to stay on ground the source itself covers (D9). -/
def Instr.wellFormed : Instr → Bool
  | .orVxVy x y => sparesVF x y
  | .andVxVy x y => sparesVF x y
  | .xorVxVy x y => sparesVF x y
  | .addVxVy x y => sparesVF x y
  | .subVxVy x y => sparesVF x y
  | .shrVxVy x y => sparesVF x y
  | .subnVxVy x y => sparesVF x y
  | .shlVxVy x y => sparesVF x y
  | .drwVxVyN x y _ => sparesVF x y
  | .cls => true
  | .ret => true
  | .jpNnn _ => true
  | .callNnn _ => true
  | .seVxKk _ _ => true
  | .sneVxKk _ _ => true
  | .seVxVy _ _ => true
  | .ldVxKk _ _ => true
  | .addVxKk _ _ => true
  | .ldVxVy _ _ => true
  | .sneVxVy _ _ => true
  | .ldINnn _ => true
  | .jpV0Nnn _ => true
  | .rndVxKk _ _ => true
  | .skpVx _ => true
  | .sknpVx _ => true
  | .ldVxDt _ => true
  | .ldVxK _ => true
  | .ldDtVx _ => true
  | .ldStVx _ => true
  | .addIVx _ => true
  | .ldFVx _ => true
  | .ldBVx _ => true
  | .ldMemVx _ => true
  | .ldVxMem _ => true

end Sys2Proof
end

