-- ==== Sys2Proof/Decode.lean ====
section
/-!
DEFINITION. The instruction decoder and the encoder: fields (spec/30_encoding.md R47), the two-level dispatch (R50), the
opcode map (R51) and the unrecognised words (R52).
-/

namespace Sys2Proof

/-! ## Fields (R47) -/

/-- `w = b0 ++ b1`: the first byte is the high one (R36, R46). -/
def wordOfBytes (b0 b1 : Byte) : Word := b0 ++ b1

/-- `b0`, the byte at the lower address (R46). -/
def highByte (w : Word) : Byte := w.extractLsb' 8 8

/-- `b1`, the byte at the higher address (R46). -/
def lowByte (w : Word) : Byte := w.extractLsb' 0 8

/-- `op = w[15:12]`, the operation group (R47). -/
def fieldOp (w : Word) : Nibble := (w.extractLsb' 12 4).toFin

/-- `x = w[11:8]` (R47). -/
def fieldX (w : Word) : Nibble := (w.extractLsb' 8 4).toFin

/-- `y = w[7:4]` (R47). -/
def fieldY (w : Word) : Nibble := (w.extractLsb' 4 4).toFin

/-- `n = w[3:0]` (R47). -/
def fieldN (w : Word) : Nibble := (w.extractLsb' 0 4).toFin

/-- `kk = w[7:0]` (R47). -/
def fieldKK (w : Word) : Byte := w.extractLsb' 0 8

/-- `nnn = w[11:0]` (R47). -/
def fieldNNN (w : Word) : Addr := w.extractLsb' 0 12

/-! ## The decoder (R50, R51) -/

/-- Why bytes give no instruction. -/
inductive DecodeError where
  /-- fewer than the two bytes every instruction has (R45) -/
  | truncated
  /-- the word matches no row of the opcode map (R52); the machine executes it as a reported no-op (R64) -/
  | unrecognised (w : Word)
  deriving DecidableEq, Repr

/-- Group 0 matches the whole word (R50). -/
def decodeGroup0 (w : Word) : Except DecodeError Instr :=
  if w = 0x00E0 then .ok .cls
  else if w = 0x00EE then .ok .ret
  else .error (.unrecognised w)

/-- Group 5 matches `n` (R50). -/
def decodeGroup5 (w : Word) : Except DecodeError Instr :=
  if fieldN w = 0 then .ok (.seVxVy (fieldX w) (fieldY w)) else .error (.unrecognised w)

/-- Group 8 matches `n` (R50). -/
def decodeGroup8 (w : Word) : Except DecodeError Instr :=
  match fieldN w with
  | 0x0 => .ok (.ldVxVy (fieldX w) (fieldY w))
  | 0x1 => .ok (.orVxVy (fieldX w) (fieldY w))
  | 0x2 => .ok (.andVxVy (fieldX w) (fieldY w))
  | 0x3 => .ok (.xorVxVy (fieldX w) (fieldY w))
  | 0x4 => .ok (.addVxVy (fieldX w) (fieldY w))
  | 0x5 => .ok (.subVxVy (fieldX w) (fieldY w))
  | 0x6 => .ok (.shrVxVy (fieldX w) (fieldY w))
  | 0x7 => .ok (.subnVxVy (fieldX w) (fieldY w))
  | 0xE => .ok (.shlVxVy (fieldX w) (fieldY w))
  | _ => .error (.unrecognised w)

/-- Group 9 matches `n` (R50). -/
def decodeGroup9 (w : Word) : Except DecodeError Instr :=
  if fieldN w = 0 then .ok (.sneVxVy (fieldX w) (fieldY w)) else .error (.unrecognised w)

/-- Group E matches `kk` (R50). -/
def decodeGroupE (w : Word) : Except DecodeError Instr :=
  if fieldKK w = 0x9E then .ok (.skpVx (fieldX w))
  else if fieldKK w = 0xA1 then .ok (.sknpVx (fieldX w))
  else .error (.unrecognised w)

/-- Group F matches `kk` (R50). -/
def decodeGroupF (w : Word) : Except DecodeError Instr :=
  if fieldKK w = 0x07 then .ok (.ldVxDt (fieldX w))
  else if fieldKK w = 0x0A then .ok (.ldVxK (fieldX w))
  else if fieldKK w = 0x15 then .ok (.ldDtVx (fieldX w))
  else if fieldKK w = 0x18 then .ok (.ldStVx (fieldX w))
  else if fieldKK w = 0x1E then .ok (.addIVx (fieldX w))
  else if fieldKK w = 0x29 then .ok (.ldFVx (fieldX w))
  else if fieldKK w = 0x33 then .ok (.ldBVx (fieldX w))
  else if fieldKK w = 0x55 then .ok (.ldMemVx (fieldX w))
  else if fieldKK w = 0x65 then .ok (.ldVxMem (fieldX w))
  else .error (.unrecognised w)

/-- The decoder on an instruction word: 16-way on the operation group, then the sub-selector (R50). -/
def decodeWord (w : Word) : Except DecodeError Instr :=
  match fieldOp w with
  | 0x0 => decodeGroup0 w
  | 0x1 => .ok (.jpNnn (fieldNNN w))
  | 0x2 => .ok (.callNnn (fieldNNN w))
  | 0x3 => .ok (.seVxKk (fieldX w) (fieldKK w))
  | 0x4 => .ok (.sneVxKk (fieldX w) (fieldKK w))
  | 0x5 => decodeGroup5 w
  | 0x6 => .ok (.ldVxKk (fieldX w) (fieldKK w))
  | 0x7 => .ok (.addVxKk (fieldX w) (fieldKK w))
  | 0x8 => decodeGroup8 w
  | 0x9 => decodeGroup9 w
  | 0xA => .ok (.ldINnn (fieldNNN w))
  | 0xB => .ok (.jpV0Nnn (fieldNNN w))
  | 0xC => .ok (.rndVxKk (fieldX w) (fieldKK w))
  | 0xD => .ok (.drwVxVyN (fieldX w) (fieldY w) (fieldN w))
  | 0xE => decodeGroupE w
  | _ => decodeGroupF w -- 0xF, the one group left

/-- The decoder on bytes, total: the instruction and the bytes after it (R45, R46). -/
def decode : List Byte → Except DecodeError (Instr × List Byte)
  | b0 :: b1 :: rest =>
    match decodeWord (wordOfBytes b0 b1) with
    | .ok i => .ok (i, rest)
    | .error e => .error e
  | [] => .error .truncated
  | [_] => .error .truncated

/-! ## The encoder, from the formats (R48) and the match column (R51) -/

/-- Format NNN: `op ++ nnn` (R48). -/
def formatNNN (op : Nibble) (nnn : Addr) : Word := (BitVec.ofFin op : BitVec 4) ++ nnn

/-- Format XKK: `op ++ x ++ kk` (R48). -/
def formatXKK (op x : Nibble) (kk : Byte) : Word := ((BitVec.ofFin op : BitVec 4) ++ (BitVec.ofFin x : BitVec 4)) ++ kk

/-- Format XYN: `op ++ x ++ y ++ n` (R48). -/
def formatXYN (op x y n : Nibble) : Word :=
  ((BitVec.ofFin op : BitVec 4) ++ (BitVec.ofFin x : BitVec 4)) ++ ((BitVec.ofFin y : BitVec 4) ++ (BitVec.ofFin n : BitVec 4))

/-- The word of an instruction (R48, R51). -/
def encode : Instr → Word
  | .cls => 0x00E0
  | .ret => 0x00EE
  | .jpNnn nnn => formatNNN 0x1 nnn
  | .callNnn nnn => formatNNN 0x2 nnn
  | .seVxKk x kk => formatXKK 0x3 x kk
  | .sneVxKk x kk => formatXKK 0x4 x kk
  | .seVxVy x y => formatXYN 0x5 x y 0x0
  | .ldVxKk x kk => formatXKK 0x6 x kk
  | .addVxKk x kk => formatXKK 0x7 x kk
  | .ldVxVy x y => formatXYN 0x8 x y 0x0
  | .orVxVy x y => formatXYN 0x8 x y 0x1
  | .andVxVy x y => formatXYN 0x8 x y 0x2
  | .xorVxVy x y => formatXYN 0x8 x y 0x3
  | .addVxVy x y => formatXYN 0x8 x y 0x4
  | .subVxVy x y => formatXYN 0x8 x y 0x5
  | .shrVxVy x y => formatXYN 0x8 x y 0x6
  | .subnVxVy x y => formatXYN 0x8 x y 0x7
  | .shlVxVy x y => formatXYN 0x8 x y 0xE
  | .sneVxVy x y => formatXYN 0x9 x y 0x0
  | .ldINnn nnn => formatNNN 0xA nnn
  | .jpV0Nnn nnn => formatNNN 0xB nnn
  | .rndVxKk x kk => formatXKK 0xC x kk
  | .drwVxVyN x y n => formatXYN 0xD x y n
  | .skpVx x => formatXKK 0xE x 0x9E
  | .sknpVx x => formatXKK 0xE x 0xA1
  | .ldVxDt x => formatXKK 0xF x 0x07
  | .ldVxK x => formatXKK 0xF x 0x0A
  | .ldDtVx x => formatXKK 0xF x 0x15
  | .ldStVx x => formatXKK 0xF x 0x18
  | .addIVx x => formatXKK 0xF x 0x1E
  | .ldFVx x => formatXKK 0xF x 0x29
  | .ldBVx x => formatXKK 0xF x 0x33
  | .ldMemVx x => formatXKK 0xF x 0x55
  | .ldVxMem x => formatXKK 0xF x 0x65

/-- The two bytes of an instruction, high byte first (R36, R46). -/
def encodeBytes (i : Instr) : List Byte := [highByte (encode i), lowByte (encode i)]

/-! ## The opcode map as a table (R51) -/

/-- A row of the opcode map: its number and its match and mask columns (R51). -/
structure OpcodeRow where
  number : Nat
  value  : Word
  mask   : Word
  deriving DecidableEq, Repr

/-- "A word `w` selects the row for which `w AND mask = match`" (R51). -/
def OpcodeRow.selects (r : OpcodeRow) (w : Word) : Bool := w &&& r.mask == r.value

/-- The 34 rows of R51, in its order. The decoder does not use this table; that the two agree is an obligation. -/
def opcodeMap : List OpcodeRow :=
  [⟨1, 0x00E0, 0xFFFF⟩, ⟨2, 0x00EE, 0xFFFF⟩, ⟨3, 0x1000, 0xF000⟩, ⟨4, 0x2000, 0xF000⟩, ⟨5, 0x3000, 0xF000⟩,
   ⟨6, 0x4000, 0xF000⟩, ⟨7, 0x5000, 0xF00F⟩, ⟨8, 0x6000, 0xF000⟩, ⟨9, 0x7000, 0xF000⟩]
  ++ [⟨10, 0x8000, 0xF00F⟩, ⟨11, 0x8001, 0xF00F⟩, ⟨12, 0x8002, 0xF00F⟩, ⟨13, 0x8003, 0xF00F⟩, ⟨14, 0x8004, 0xF00F⟩,
      ⟨15, 0x8005, 0xF00F⟩, ⟨16, 0x8006, 0xF00F⟩, ⟨17, 0x8007, 0xF00F⟩, ⟨18, 0x800E, 0xF00F⟩, ⟨19, 0x9000, 0xF00F⟩]
  ++ [⟨20, 0xA000, 0xF000⟩, ⟨21, 0xB000, 0xF000⟩, ⟨22, 0xC000, 0xF000⟩, ⟨23, 0xD000, 0xF000⟩, ⟨24, 0xE09E, 0xF0FF⟩,
      ⟨25, 0xE0A1, 0xF0FF⟩]
  ++ [⟨26, 0xF007, 0xF0FF⟩, ⟨27, 0xF00A, 0xF0FF⟩, ⟨28, 0xF015, 0xF0FF⟩, ⟨29, 0xF018, 0xF0FF⟩, ⟨30, 0xF01E, 0xF0FF⟩,
      ⟨31, 0xF029, 0xF0FF⟩, ⟨32, 0xF033, 0xF0FF⟩, ⟨33, 0xF055, 0xF0FF⟩, ⟨34, 0xF065, 0xF0FF⟩]

/-- The number of the row an instruction stands for (R51, column `#`). -/
def rowNumber : Instr → Nat
  | .cls => 1
  | .ret => 2
  | .jpNnn _ => 3
  | .callNnn _ => 4
  | .seVxKk _ _ => 5
  | .sneVxKk _ _ => 6
  | .seVxVy _ _ => 7
  | .ldVxKk _ _ => 8
  | .addVxKk _ _ => 9
  | .ldVxVy _ _ => 10
  | .orVxVy _ _ => 11
  | .andVxVy _ _ => 12
  | .xorVxVy _ _ => 13
  | .addVxVy _ _ => 14
  | .subVxVy _ _ => 15
  | .shrVxVy _ _ => 16
  | .subnVxVy _ _ => 17
  | .shlVxVy _ _ => 18
  | .sneVxVy _ _ => 19
  | .ldINnn _ => 20
  | .jpV0Nnn _ => 21
  | .rndVxKk _ _ => 22
  | .drwVxVyN _ _ _ => 23
  | .skpVx _ => 24
  | .sknpVx _ => 25
  | .ldVxDt _ => 26
  | .ldVxK _ => 27
  | .ldDtVx _ => 28
  | .ldStVx _ => 29
  | .addIVx _ => 30
  | .ldFVx _ => 31
  | .ldBVx _ => 32
  | .ldMemVx _ => 33
  | .ldVxMem _ => 34

/-! ## The host's entry -/

/-- The word the opcode table numbers `w`: bit 0 is the least significant bit of the one 16-bit word, and the bits at and
above `nbits` are 0. -/
def tableWord (nbits w : Nat) : Word := BitVec.ofNat 16 (w % 2 ^ nbits)

/-- The instruction the decoder reads from the bytes of that word, laid out high byte first (R36). -/
def decodeTableWord (nbits w : Nat) : Option Instr :=
  match decode [highByte (tableWord nbits w), lowByte (tableWord nbits w)] with
  | .ok (i, _) => some i
  | .error _ => none

end Sys2Proof
end

