-- ==== Sys2Proof/Config.lean ====
section
/-!
DEFINITION. The parameters of this hardware (spec/00_scope.md R5) and its two free values: the font bytes and the
random draw, which the spec leaves OPEN (spec/93_implementation_defined.md U7, U10).
-/

namespace Sys2Proof.Config

/-- `MEM_SIZE`: addresses 0..4095 (R5, R30). -/
def memSize : Nat := 4096

/-- `PC_RESET` (R5, R13). -/
def pcReset : Word := 0x200

/-- `ROM_BASE`: where `Load` puts byte 0 (R5, R43). -/
def romBase : Nat := 0x200

/-- `ROM_MAX` = 4096 - 0x200 (R5, R43, C3). -/
def romMax : Nat := 3584

/-- `FONT_SIZE`: 16 glyphs of 5 bytes from address 0 (R5, R31). -/
def fontSize : Nat := 80

/-- `DISPLAY_W` (R5, R16). -/
def displayW : Nat := 64

/-- `DISPLAY_H` (R5, R16). -/
def displayH : Nat := 32

/-- FREE VALUE. `FONT`, the 80 glyph bytes: an OPEN parameter (R5, D18, U10). Byte `a` is `font a`, for `a < 80`; a claim
holds for every font. Log 1. -/
opaque font : Nat → Byte

/-- FREE VALUE. The `k`-th byte `random_byte()` returns: under no law (R92, D12, U7). The machine applies it to the number
of draws made so far, so each draw is a fresh unconstrained byte. Log 2. -/
opaque randomByte : Nat → Byte

/-- The customary font table, which the spec suggests as a default and has not checked (93 G1). PRESUMED: it is no part of
the machine. It is here only to be named as a premise, `IsCustomaryFont`. -/
def customaryFont : List Byte :=
  [0xF0, 0x90, 0x90, 0x90, 0xF0,  0x20, 0x60, 0x20, 0x20, 0x70,  0xF0, 0x10, 0xF0, 0x80, 0xF0,  0xF0, 0x10, 0xF0, 0x10, 0xF0]
  ++ [0x90, 0x90, 0xF0, 0x10, 0x10,  0xF0, 0x80, 0xF0, 0x10, 0xF0,  0xF0, 0x80, 0xF0, 0x90, 0xF0,  0xF0, 0x10, 0x20, 0x40, 0x40]
  ++ [0xF0, 0x90, 0xF0, 0x90, 0xF0,  0xF0, 0x90, 0xF0, 0x10, 0xF0,  0xF0, 0x90, 0xF0, 0x90, 0x90,  0xE0, 0x90, 0xE0, 0x90, 0xE0]
  ++ [0xF0, 0x80, 0x80, 0x80, 0xF0,  0xE0, 0x90, 0x90, 0x90, 0xE0,  0xF0, 0x80, 0xF0, 0x80, 0xF0,  0xF0, 0x80, 0xF0, 0x80, 0x80]

/-- The premise "`FONT` is the customary table" that a claim about glyph shapes must state (93 G1). -/
def IsCustomaryFont : Prop := ∀ a : Nat, a < 80 → font a = customaryFont.getD a 0

/-- What a byte of `MEM` that nothing has written since `Reset` reads as: the font at 0x000..0x04F, 0 above it (R25, R31). -/
def resetByte (a : Nat) : Byte := if a < fontSize then font a else 0

end Sys2Proof.Config
end

