-- ==== Sys2Proof/Machine/State.lean ====
section
/-!
DEFINITION. The state of the block, all of spec/10_state.md, as plain data; the state at power-on (R25, R161); the reasons a
step can stop (there is none here, see `Fault` and `Refusal`).
-/

namespace Sys2Proof.Machine

/-- The code in `ERR`: why the current run stopped, `none` when it has not (R21, R130). Codes 6 and 7 are never written. -/
inductive ErrorCode where
  /-- 0 `None` -/
  | none
  /-- 1, raised by `2nnn` when `SP = 16` (R131) -/
  | stackOverflow
  /-- 2, raised by `00EE` when `SP = 0` (R132) -/
  | stackUnderflow
  /-- 3, raised by `Dxyn`, `Fx33`, `Fx55`, `Fx65` when an address exceeds 4095 (R133) -/
  | addressError
  /-- 4, raised by the fetch when `pc > 4094` (R134) -/
  | fetchAddressError
  /-- 5, raised by `Ex9E`, `ExA1` when `V[x] > 15` (R135) -/
  | keyIndexError
  deriving DecidableEq, Repr

/-- The code's number in the 3-bit register (R21). -/
def ErrorCode.code : ErrorCode → BitVec 3
  | .none => 0
  | .stackOverflow => 1
  | .stackUnderflow => 2
  | .addressError => 3
  | .fetchAddressError => 4
  | .keyIndexError => 5

/-- The frame buffer's type: 32 rows, each of 64 one-bit pixels; row 0 and column 0 first (R16). -/
abbrev Grid := Vector (Vector Bool 64) 32

/-- A surface with every pixel off (R16, R160). -/
def Grid.blank : Grid := Vector.replicate 32 (Vector.replicate 64 false)

/-- `MEM`, held sparsely: the cells that differ from what `Reset` puts there, addresses strictly rising (R30, log 6). -/
abbrev Memory := List Host.Cell

/-- A command of R6: one atomic transition, issued by the agent R6 names. -/
inductive Command where
  /-- one engine cycle, by the execution driver (R60); its random byte is the free value of log 2 -/
  | cycle
  /-- by the timer driver (R144) -/
  | tick
  /-- by the display sink (R147) -/
  | render
  /-- by the input source: key `k` goes down (`true`) or up (R146) -/
  | setKey (k : Nibble) (p : Bool)
  /-- by the host: load a ROM (R162) -/
  | load (bytes : List Byte)
  /-- by the host (R160) -/
  | reset
  deriving DecidableEq, Repr

/-- What the block emits to the outside; no rule reads it (R24(e), R152). -/
inductive Output where
  /-- the report of an unrecognised word: its address and the word (R64, R136) -/
  | unrecognisedOpcode (pc w : Word)
  /-- a copy of all 2048 pixels, by `Render` (R147) -/
  | frame (fb : Grid)
  deriving DecidableEq, Repr

/-- The state of the block (spec/10_state.md), then three fields of the model's own. -/
structure State where
  /-- `V[0]`..`V[15]` (R10); `V[15]` is `VF` (R11) -/
  v : Vector Byte 16
  /-- `I` (R12) -/
  idx : Word
  /-- `pc` (R13) -/
  pc : Word
  /-- `STACK[0]`..`STACK[15]` (R14) -/
  stack : Vector Word 16
  /-- `SP`, the number of live entries, 0..16 (R14) -/
  sp : Fin 17
  /-- `DT` (R15) -/
  dt : Byte
  /-- `ST` (R15) -/
  st : Byte
  /-- `FB` (R16) -/
  fb : Grid
  /-- `DIRTY` (R17) -/
  dirty : Bool
  /-- `KEY[0]`..`KEY[15]`, `true` is down (R18) -/
  key : Vector Bool 16
  /-- `RUN` (R19) -/
  run : Bool
  /-- `WAIT` (R20) -/
  wait : Bool
  /-- `WREG` (R20) -/
  wreg : Nibble
  /-- `ERR` (R21) -/
  err : ErrorCode
  /-- `TRUNC` (R22) -/
  trunc : Bool
  /-- `MEM` (R30) -/
  mem : Memory
  /-- MODEL: commands issued and not yet performed, oldest first (R6, R7, log 3) -/
  pending : List Command
  /-- MODEL: how many random bytes have been drawn; the free value is applied to it (R92, log 2) -/
  draws : Nat
  /-- MODEL: what has been emitted, newest first (R24(e), log 4) -/
  outputs : List Output
  deriving DecidableEq, Repr

/-- The machine right after power-on: what `Reset` leaves, with every key up (R25, R161). Not runnable until a `Load` (R19). -/
def State.reset : State where
  v := Vector.replicate 16 0
  idx := 0
  pc := Config.pcReset
  stack := Vector.replicate 16 0
  sp := 0
  dt := 0
  st := 0
  fb := Grid.blank
  dirty := true
  key := Vector.replicate 16 false
  run := false
  wait := false
  wreg := 0
  err := .none
  trunc := false
  mem := []
  pending := []
  draws := 0
  outputs := []

/-- Faults: there is none. Every condition the spec names is a fatal error, which writes `ERR` and goes on (R130, R140), a
report (R136) or a no-op; 93 part 1 leaves no behaviour without an effect. So nothing raises a fault. -/
inductive Fault where
  deriving DecidableEq, Repr

/-- Refusals: the host's own constructor, which no arm of `exec` answers with. -/
inductive Refusal where
  /-- an instruction with no meaning yet, named by its mnemonic; safe; raised by nothing in this model -/
  | notModelled (mnemonic : String)
  deriving DecidableEq, Repr

/-- The outcome of a step or of an instruction. -/
abbrev Result := Host.Outcome State Fault Refusal

end Sys2Proof.Machine
end

