-- ==== Sys2Proof/Machine/Memory.lean ====
section
/-!
DEFINITION. `MEM` as a list of cells in one canonical form (spec/20_memory.md R30 to R37): reading and writing one byte.
-/

namespace Sys2Proof.Machine

/-- The canonical form: addresses strictly rise, all are in 0..4095, and no cell holds what an unlisted address reads as.
So equal memories are equal lists. -/
abbrev Memory.wf (m : Memory) : Prop :=
  m.Pairwise (fun p q => p.1 < q.1) ∧ ∀ p ∈ m, p.1 < Config.memSize ∧ p.2 ≠ Config.resetByte p.1

/-- `MemRead(a, 1)` (R8, R37). For `a` in 0..4095, which every rule checks before it reads. -/
def Memory.read : Memory → Nat → Byte
  | [], a => Config.resetByte a
  | (b, u) :: rest, a => if a = b then u else Memory.read rest a

/-- List address `a` as holding `u`, in address order. -/
def insertCell : Memory → Nat → Byte → Memory
  | [], a, u => [(a, u)]
  | (b, w) :: rest, a, u =>
    if a < b then (a, u) :: (b, w) :: rest
    else if a = b then (a, u) :: rest
    else (b, w) :: insertCell rest a u

/-- List address `a` no longer. -/
def removeCell : Memory → Nat → Memory
  | [], _ => []
  | (b, w) :: rest, a => if a = b then removeCell rest a else (b, w) :: removeCell rest a

/-- `MemWrite(a, 1, u)` (R8, R37): that byte and no other. Writing what an unlisted address reads as unlists it. There is no
cell outside 0..4095 (R30), and every rule checks its addresses before it writes. -/
def Memory.write (m : Memory) (a : Nat) (u : Byte) : Memory :=
  if a < Config.memSize then
    if u = Config.resetByte a then removeCell m a else insertCell m a u
  else m

end Sys2Proof.Machine
end

