-- ==== Sys2Proof/Machine/Ops.lean ====
section
/-!
DEFINITION. The named operations every meaning is written over: registers, `pc`, `I`, memory bytes, pixels, and raising a
fatal error (spec/00_scope.md R8, spec/60_exceptions.md R140).
-/

namespace Sys2Proof.Machine

/-! ## Registers -/

/-- `V[x]` (R8, R10). -/
def State.reg (s : State) (x : Nibble) : Byte := s.v[x.val]

/-- `V[x] <- u` (R8, R10). -/
def State.setReg (s : State) (x : Nibble) (u : Byte) : State := { s with v := s.v.set x.val u }

/-- `pc <- target` (R8). -/
def State.setPc (s : State) (target : Word) : State := { s with pc := target }

/-- `pc <- pc + 2`: how every instruction that is no control transfer ends (R63(a)). -/
def State.advance (s : State) : State := s.setPc (s.pc + 2)

/-- A skip's end: `pc + 4` when its condition holds, `pc + 2` when not (R63(b), R70(d)). -/
def State.skipIf (s : State) (c : Bool) : State := s.setPc (if c then s.pc + 4 else s.pc + 2)

/-- `I <- u` (R8, R12). -/
def State.setIdx (s : State) (u : Word) : State := { s with idx := u }

/-! ## Memory -/

/-- `MemRead(a, 1)` (R8). -/
def State.byteAt (s : State) (a : Nat) : Byte := s.mem.read a

/-- `MemWrite(a, 1, u)` (R8). -/
def State.setByte (s : State) (a : Nat) (u : Byte) : State := { s with mem := s.mem.write a u }

/-! ## Pixels -/

/-- `FB[r][c]` (R8, R16); there is no pixel outside the 32 rows and 64 columns. -/
def Grid.get (g : Grid) (r c : Nat) : Bool := if h : r < 32 ∧ c < 64 then g[r][c] else false

/-- `FB[r][c] <- b` (R8, R16). -/
def Grid.set (g : Grid) (r c : Nat) (b : Bool) : Grid :=
  if h : r < 32 ∧ c < 64 then Vector.set g r (Vector.set g[r] c b) else g

/-- The pixel in row `r`, column `c` (R16). -/
def State.pixel (s : State) (r c : Nat) : Bool := Grid.get s.fb r c

/-! ## Fatal errors -/

/-- `ERR <- e` (R21). -/
def State.setErr (s : State) (e : ErrorCode) : State := { s with err := e }

/-- Raising a fatal error, the machine's one way to take an exception: `ERR` takes the code and no other state element
changes; control goes nowhere, there is no handler and no vector (R140). There is no return from it: only `Reset` and `Load`
clear `ERR` (R141), see `resetBlock`. -/
def raise (e : ErrorCode) (s : State) : Result := .next (s.setErr e)

/-- The range check of R35, made on the whole run of addresses before the first byte moves: `top` is the highest address,
an unbounded integer. -/
def checked (top : Nat) (s : State) (k : Result) : Result := if top > 4095 then raise .addressError s else k

end Sys2Proof.Machine
end

