-- ==== Sys2Proof/Machine/Operands.lean ====
section
/-!
DEFINITION. Operand forms beyond a plain register or immediate: zero extensions, the bytes at `I + k`, the key number in a
register, decimal digits, the sprite origin and a sprite row's bits.
-/

namespace Sys2Proof.Machine

/-- `zext_16(nnn)` (R8, R49). -/
def zextAddr (nnn : Addr) : Word := nnn.setWidth 16

/-- `zext_16(u)` of a byte (R8). -/
def zextByte (u : Byte) : Word := u.setWidth 16

/-- A key number as the byte a register takes, zero-extended (R117). -/
def keyByte (k : Nibble) : Byte := BitVec.ofNat 8 k.val

/-- The address of the `k`-th byte of an access through `I`: the unbounded integer `I + k` (R44, R101(a)). -/
def State.ea (s : State) (k : Nat) : Nat := s.idx.toNat + k

/-- The register with number `k`, for the runs `V[0]`..`V[x]` (R99, R100). -/
def regNumber (k : Nat) : Nibble := Fin.ofNat 16 k

/-- Whether key `k` is down (R18, R115). -/
def State.keyDown (s : State) (k : Nibble) : Bool := s.key[k.val]

/-- The decimal digits of a byte: hundreds, tens, units (R98). -/
def hundreds (u : Byte) : Byte := BitVec.ofNat 8 (u.toNat / 100)

def tens (u : Byte) : Byte := BitVec.ofNat 8 (u.toNat / 10 % 10)

def units (u : Byte) : Byte := BitVec.ofNat 8 (u.toNat % 10)

/-- The origin column of a sprite, `V[x] mod 64` (R106). -/
def State.originCol (s : State) (x : Nibble) : Nat := (s.reg x).toNat % 64

/-- The origin row of a sprite, `V[y] mod 32` (R106). -/
def State.originRow (s : State) (y : Nibble) : Nat := (s.reg y).toNat % 32

/-- Bit `j` of a sprite row from the left: the most significant bit first, `row[7 - j]` (R106). -/
def spriteBit (row : Byte) (j : Nat) : Bool := row.getLsbD (7 - j)

end Sys2Proof.Machine
end

