-- ==== Sys2Proof/Machine/Commands.lean ====
section
/-!
DEFINITION. The commands of the other agents: `Tick`, `SetKey`, `Render` (spec/60_exceptions.md R144, R146, R147), `Reset` and
`Load` (spec/70_reset_and_hazards.md R160 to R163). None of them fails (R137, R162).
-/

namespace Sys2Proof.Machine

/-- One tick of a counter: down by 1 unless it is 0 (R144). -/
def countDown (u : Byte) : Byte := if u = 0 then 0 else u - 1

/-- `Tick`: gated on `RUN` only, so it counts during a wait and after a fatal error (R144). -/
def tick (s : State) : State :=
  if s.run then { s with dt := countDown s.dt, st := countDown s.st } else s

/-- Part 2 of `Fx0A`: the key's number into `V[WREG]`, the wait is over, past the instruction (R117, R146). -/
def completeWait (k : Nibble) (s : State) : State := { s.setReg s.wreg (keyByte k) with wait := false }.advance

/-- `SetKey(k, p)`: a press of a key that is up is the press edge, which completes a pending wait; a release never does; a
press of a key that is down changes nothing (R146). -/
def setKey (k : Nibble) (p : Bool) (s : State) : State :=
  if p then
    if s.keyDown k then s
    else
      let t := { s with key := s.key.set k.val true }
      if t.wait then completeWait k t else t
  else { s with key := s.key.set k.val false }

/-- `Render`: when `DIRTY`, output a copy of the surface and acknowledge, in one command (R147). -/
def render (s : State) : State :=
  if s.dirty then { s with dirty := false, outputs := .frame s.fb :: s.outputs } else s

/-- `Reset`: every element as at power-on, but the key latch, which it leaves (R160). The model's own fields are no state of
the block: what is pending stays pending, what was emitted stays emitted, and no draw is drawn twice (logs 2, 3, 4). -/
def resetBlock (s : State) : State :=
  { State.reset with key := s.key, pending := s.pending, draws := s.draws, outputs := s.outputs }

/-- Copy bytes to `a`, `a + 1`, … (R162). -/
def copyBytes : Nat → List Byte → Memory → Memory
  | _, [], m => m
  | a, b :: bs, m => copyBytes (a + 1) bs (m.write a b)

/-- `Load(bytes)`: a full reset, then at most `ROM_MAX` bytes from `ROM_BASE`, then runnable; a longer sequence is truncated
with a warning (R162, R163). -/
def load (bytes : List Byte) (s : State) : State :=
  let t := resetBlock s
  { t with
    mem := copyBytes Config.romBase (bytes.take Config.romMax) t.mem
    trunc := decide (bytes.length > Config.romMax)
    run := true }

end Sys2Proof.Machine
end

