-- ==== Sys2Proof/Machine/Flags.lean ====
section
/-!
DEFINITION. The values written to `VF`, the only flag (spec/10_state.md R11).
-/

namespace Sys2Proof.Machine

/-- A flag value: 1 when the condition holds, else 0 (R11). -/
def flag (c : Bool) : Byte := if c then 1 else 0

/-- The carry out of bit 7: the sum exceeds 255 (R87). -/
def carry (a b : Byte) : Byte := flag (decide (a.toNat + b.toNat > 255))

/-- Strictly greater, unsigned: equal operands give 0 (R88, R90, U9). -/
def greater (a b : Byte) : Byte := flag (decide (a.toNat > b.toNat))

/-- The bit a right shift moves out: bit 0 (R89). -/
def lowBit (a : Byte) : Byte := a &&& 1

/-- The bit a left shift moves out: bit 7 (R91). -/
def topBit (a : Byte) : Byte := (a >>> 7) &&& 1

/-- `V[0xF] <- u`: the flag's write (R11). -/
def State.setVF (s : State) (u : Byte) : State := s.setReg vF u

end Sys2Proof.Machine
end

