-- ==== Sys2Proof/Machine/Alu.lean ====
section
/-!
DEFINITION. Register load, arithmetic, logic, shifts and random (spec/42_alu.md R80 to R92). Each meaning runs the rule's
statements in the order written, each reading the registers as the one before left them (R80(d)).
-/

namespace Sys2Proof.Machine

/-- `6xkk` (R81). -/
def execLdVxKk (x : Nibble) (kk : Byte) (s : State) : Result := .next (s.setReg x kk).advance

/-- `7xkk`: wraps, no flag (R82). -/
def execAddVxKk (x : Nibble) (kk : Byte) (s : State) : Result := .next (s.setReg x (s.reg x + kk)).advance

/-- `8xy0` (R83). -/
def execLdVxVy (x y : Nibble) (s : State) : Result := .next (s.setReg x (s.reg y)).advance

/-- `8xy1` (R84). -/
def execOrVxVy (x y : Nibble) (s : State) : Result :=
  .next ((s.setReg x (s.reg x ||| s.reg y)).setVF 0).advance

/-- `8xy2` (R85). -/
def execAndVxVy (x y : Nibble) (s : State) : Result :=
  .next ((s.setReg x (s.reg x &&& s.reg y)).setVF 0).advance

/-- `8xy3` (R86). -/
def execXorVxVy (x y : Nibble) (s : State) : Result :=
  .next ((s.setReg x (s.reg x ^^^ s.reg y)).setVF 0).advance

/-- `8xy4`: the sum is a temporary, made before either write (R87). -/
def execAddVxVy (x y : Nibble) (s : State) : Result :=
  .next ((s.setReg x (s.reg x + s.reg y)).setVF (carry (s.reg x) (s.reg y))).advance

/-- `a - b` into `V[x]`, read after the flag was written (R88, R90). -/
def subtractInto (x a b : Nibble) (s : State) : State := s.setReg x (s.reg a - s.reg b)

/-- `8xy5`: flag first, then the difference (R88). -/
def execSubVxVy (x y : Nibble) (s : State) : Result :=
  .next (subtractInto x x y (s.setVF (greater (s.reg x) (s.reg y)))).advance

/-- `8xy7`: flag first, then the difference (R90). -/
def execSubnVxVy (x y : Nibble) (s : State) : Result :=
  .next (subtractInto x y x (s.setVF (greater (s.reg y) (s.reg x)))).advance

/-- The shifts' three statements: copy `Vy` to `Vx`, the bit moved out to `VF`, shift `Vx`; each reads the registers as the
one before left them (R89, R91). -/
def copyFlagShift (out shift : Byte → Byte) (x y : Nibble) (s : State) : State :=
  let s1 := s.setReg x (s.reg y)
  let s2 := s1.setVF (out (s1.reg x))
  s2.setReg x (shift (s2.reg x))

/-- `8xy6`: logical, by one (R89). -/
def execShrVxVy (x y : Nibble) (s : State) : Result :=
  .next (copyFlagShift lowBit (fun u => u >>> 1) x y s).advance

/-- `8xyE`: by one, bit 7 discarded (R91). -/
def execShlVxVy (x y : Nibble) (s : State) : Result :=
  .next (copyFlagShift topBit (fun u => u <<< 1) x y s).advance

/-- `Cxkk` for the draw `rnd` (R92). -/
def maskedDraw (rnd : Byte) (x : Nibble) (kk : Byte) (s : State) : State := (s.setReg x (rnd &&& kk)).advance

/-- `Cxkk`: the draw is a fresh free value, and the next draw is another (R92, D12, log 2). -/
def execRndVxKk (x : Nibble) (kk : Byte) (s : State) : Result :=
  .next (maskedDraw (Config.randomByte s.draws) x kk { s with draws := s.draws + 1 })

end Sys2Proof.Machine
end

