-- ==== Sys2Proof/Machine/Control.lean ====
section
/-!
DEFINITION. Control transfer (spec/41_control_flow.md R70 to R78).
-/

namespace Sys2Proof.Machine

/-- `00EE`: the popped entry is the address of the matching call; it stays in `STACK` (R71, R14). -/
def execRet (s : State) : Result :=
  if s.sp.val = 0 then raise .stackUnderflow s
  else
    .next { s with
      sp := ⟨s.sp.val - 1, Nat.lt_of_le_of_lt (Nat.sub_le _ _) s.sp.isLt⟩
      pc := s.stack.getD (s.sp.val - 1) 0 + 2 }

/-- `1nnn` (R72). -/
def execJpNnn (nnn : Addr) (s : State) : Result := .next (s.setPc (zextAddr nnn))

/-- `2nnn`: pushes its own address (R74). -/
def execCallNnn (nnn : Addr) (s : State) : Result :=
  if h : s.sp.val < 16 then
    .next { s with
      stack := s.stack.set s.sp.val s.pc h
      sp := ⟨s.sp.val + 1, Nat.succ_lt_succ h⟩
      pc := zextAddr nnn }
  else raise .stackOverflow s

/-- `3xkk` (R75). -/
def execSeVxKk (x : Nibble) (kk : Byte) (s : State) : Result := .next (s.skipIf (s.reg x == kk))

/-- `4xkk` (R76). -/
def execSneVxKk (x : Nibble) (kk : Byte) (s : State) : Result := .next (s.skipIf (s.reg x != kk))

/-- `5xy0` (R77). -/
def execSeVxVy (x y : Nibble) (s : State) : Result := .next (s.skipIf (s.reg x == s.reg y))

/-- `9xy0` (R78). -/
def execSneVxVy (x y : Nibble) (s : State) : Result := .next (s.skipIf (s.reg x != s.reg y))

/-- `Bnnn`: adds `V[0]`, whatever the `x` nibble; the sum is not reduced to 12 bits (R73). -/
def execJpV0Nnn (nnn : Addr) (s : State) : Result := .next (s.setPc (zextAddr nnn + zextByte (s.reg 0)))

end Sys2Proof.Machine
end

