-- ==== Sys2Proof/Machine/Display.lean ====
section
/-!
DEFINITION. Display: clear, and the XOR sprite draw with collision and dirty flag (spec/44_display.md R105 to R109).
-/

namespace Sys2Proof.Machine

/-- `00E0`: every pixel off, `DIRTY` set even on a blank surface (R105). -/
def execCls (s : State) : Result := .next { s with fb := Grid.blank, dirty := true }.advance

/-- What a sprite draw works on: the pixels, whether a pixel has collided, whether a pixel has been plotted (R106). -/
structure Drawing where
  fb : Grid
  hit : Bool
  plotted : Bool
  deriving DecidableEq, Repr

/-- Plot one set sprite bit: a pixel that was on is a collision; the pixel is XORed with 1; `DIRTY` becomes 1 (R106, R108). -/
def plot (r c : Nat) (d : Drawing) : Drawing :=
  { fb := Grid.set d.fb r c (Grid.get d.fb r c ^^ true), hit := d.hit || Grid.get d.fb r c, plotted := true }

/-- One sprite row at row `r`: the bits `j` of the list from the left; a column past the right edge ends the row (R106). -/
def drawBits (r ox : Nat) (row : Byte) : List Nat → Drawing → Drawing
  | [], d => d
  | j :: js, d =>
    if ox + j ≥ Config.displayW then d
    else drawBits r ox row js (if spriteBit row j then plot r (ox + j) d else d)

/-- The sprite rows `i` of the list, top to bottom: a row past the bottom edge ends the draw (R106). -/
def drawRows (oy ox : Nat) (sprite : Nat → Byte) : List Nat → Drawing → Drawing
  | [], d => d
  | i :: is, d =>
    if oy + i ≥ Config.displayH then d
    else drawRows oy ox sprite is (drawBits (oy + i) ox (sprite i) (List.range 8) d)

/-- The draw of R106 on the surface of `s`, with no collision and nothing plotted yet. -/
def drawSprite (x y n : Nibble) (s : State) : Drawing :=
  drawRows (s.originRow y) (s.originCol x) (fun i => s.byteAt (s.ea i)) (List.range n.val) ⟨s.fb, false, false⟩

/-- `Dxyn`: the origin is read before `VF` is written; all `n` rows are checked, the clipped ones too; `n = 0` checks and
draws nothing (R106). -/
def execDrwVxVyN (x y n : Nibble) (s : State) : Result :=
  if n.val > 0 ∧ s.ea (n.val - 1) > 4095 then raise .addressError s
  else
    let d := drawSprite x y n s
    .next ({ s with fb := d.fb, dirty := s.dirty || d.plotted }.setVF (flag d.hit)).advance

end Sys2Proof.Machine
end

