-- ==== Sys2Proof/Machine/IndexMemory.lean ====
section
/-!
DEFINITION. Index register and memory (spec/43_index_and_memory.md R95 to R101).
-/

namespace Sys2Proof.Machine

/-- `Annn` (R95). -/
def execLdINnn (nnn : Addr) (s : State) : Result := .next (s.setIdx (zextAddr nnn)).advance

/-- `Fx1E`: wraps at 16 bits, no flag (R96). -/
def execAddIVx (x : Nibble) (s : State) : Result := .next (s.setIdx (s.idx + zextByte (s.reg x))).advance

/-- `Fx29`: the whole of `Vx`, not its low nibble (R97). -/
def execLdFVx (x : Nibble) (s : State) : Result := .next (s.setIdx (zextByte (s.reg x) * 5)).advance

/-- `Fx33`: hundreds, tens, units at `I`, `I + 1`, `I + 2` (R98). -/
def execLdBVx (x : Nibble) (s : State) : Result :=
  checked (s.ea 2) s
    (.next (((s.setByte (s.ea 0) (hundreds (s.reg x))).setByte (s.ea 1) (tens (s.reg x))).setByte (s.ea 2)
      (units (s.reg x))).advance)

/-- `V[0]`..`V[k-1]` stored to `base`..`base + k - 1`, in ascending order (R99). -/
def storeRun (base : Nat) : Nat → State → State
  | 0, s => s
  | k + 1, s =>
    let t := storeRun base k s
    t.setByte (base + k) (t.reg (regNumber k))

/-- `V[0]`..`V[k-1]` loaded from `base`..`base + k - 1`, in ascending order (R100). -/
def loadRun (base : Nat) : Nat → State → State
  | 0, s => s
  | k + 1, s =>
    let t := loadRun base k s
    t.setReg (regNumber k) (t.byteAt (base + k))

/-- `I <- (I + x + 1) mod 65536` (R99, R100, R44). -/
def bumpIdx (x : Nibble) (s : State) : State := s.setIdx (s.idx + BitVec.ofNat 16 (x.val + 1))

/-- `Fx55` (R99). -/
def execLdMemVx (x : Nibble) (s : State) : Result :=
  checked (s.ea x.val) s (.next (bumpIdx x (storeRun (s.ea 0) (x.val + 1) s)).advance)

/-- `Fx65` (R100). -/
def execLdVxMem (x : Nibble) (s : State) : Result :=
  checked (s.ea x.val) s (.next (bumpIdx x (loadRun (s.ea 0) (x.val + 1) s)).advance)

end Sys2Proof.Machine
end

