-- ==== Sys2Proof/Machine/KeypadTimers.lean ====
section
/-!
DEFINITION. Keypad and timer instructions (spec/45_keypad_and_timers.md R115 to R121).
-/

namespace Sys2Proof.Machine

/-- Run `k` on the key whose number `V[x]` holds; a number above 15 raises `KeyIndexError` (R121(c)). -/
def withKey (x : Nibble) (s : State) (k : Nibble → Result) : Result :=
  if h : (s.reg x).toNat < 16 then k ⟨(s.reg x).toNat, h⟩ else raise .keyIndexError s

/-- `Ex9E` (R115). -/
def execSkpVx (x : Nibble) (s : State) : Result := withKey x s fun k => .next (s.skipIf (s.keyDown k))

/-- `ExA1` (R116). -/
def execSknpVx (x : Nibble) (s : State) : Result := withKey x s fun k => .next (s.skipIf (!s.keyDown k))

/-- `Fx07` (R118). -/
def execLdVxDt (x : Nibble) (s : State) : Result := .next (s.setReg x s.dt).advance

/-- `Fx0A`, part 1: begin the wait; `pc` stays and no register is written. Part 2 is the press edge's, in `setKey` (R117). -/
def execLdVxK (x : Nibble) (s : State) : Result := .next { s with wait := true, wreg := x }

/-- `Fx15` (R119). -/
def execLdDtVx (x : Nibble) (s : State) : Result := .next { s with dt := s.reg x }.advance

/-- `Fx18` (R120). -/
def execLdStVx (x : Nibble) (s : State) : Result := .next { s with st := s.reg x }.advance

end Sys2Proof.Machine
end

