-- ==== Sys2Proof/Machine/Cycle.lean ====
section
/-!
DEFINITION. The `Cycle` command: gating, fetch, decode and dispatch (spec/40_cycle_and_dispatch.md R60 to R67), and performing
any command.
-/

namespace Sys2Proof.Machine

/-- A `Cycle` changes nothing while this holds: not loaded, stopped by a fatal error, or waiting for a key (R60). -/
def State.gated (s : State) : Bool := !s.run || s.err != .none || s.wait

/-- The word at `pc`: high byte at `pc`, low byte at `pc + 1` (R36, R61). -/
def State.fetchWord (s : State) : Word := wordOfBytes (s.byteAt s.pc.toNat) (s.byteAt (s.pc.toNat + 1))

/-- An unrecognised word: a reported no-op (R64). -/
def unrecognised (w : Word) (s : State) : State :=
  { s with outputs := .unrecognisedOpcode s.pc w :: s.outputs }.advance

/-- `Cycle` (R60, R61, R62, R64): the bytes now at `pc` are decoded anew every time (R41). -/
def cycle (s : State) : Result :=
  if s.gated then .next s
  else if s.pc.toNat > 4094 then raise .fetchAddressError s
  else
    match decodeWord s.fetchWord with
    | .ok i => exec i s
    | .error _ => .next (unrecognised s.fetchWord s)

/-- Perform one command (R6). -/
def perform (c : Command) (s : State) : Result :=
  match c with
  | .cycle => cycle s
  | .tick => .next (tick s)
  | .render => .next (render s)
  | .setKey k p => .next (setKey k p s)
  | .load bytes => .next (load bytes s)
  | .reset => .next (resetBlock s)

/-- The address the next `Cycle` fetches from, or the entry point where `pc` is no address a fetch can use. -/
def State.fetchPc (s : State) : Word := if s.pc.toNat > 4094 then Config.pcReset else s.pc

/-- A state whose very next step runs the instruction `w`: its two bytes where the fetch reads, the engine runnable, not
stopped, not waiting, and no other agent's command before the `Cycle`. It stands for the `Load` that brings a program in
(R164, log 5). -/
def placeInstruction (w : Word) (s : State) : State :=
  let p := s.fetchPc
  { s with
    pc := p
    mem := (s.mem.write p.toNat (highByte w)).write (p.toNat + 1) (lowByte w)
    run := true
    err := .none
    wait := false
    pending := [] }

end Sys2Proof.Machine
end

