-- ==== Sys2Proof/Machine/Step.lean ====
section
/-!
DEFINITION. One step of the machine: one whole command (spec/00_scope.md R6, R7).
-/

namespace Sys2Proof.Machine

/-- Perform the oldest pending command; with none pending, the execution driver issues a `Cycle` (R7, R149, log 3). -/
def step (s : State) : Host.Outcome State Fault Refusal :=
  match s.pending with
  | [] => cycle s
  | c :: rest => perform c { s with pending := rest }

/-- `s` with the instruction whose table bits are `w` stored where the next step fetches (log 5). -/
def State.withFetchWord (s : State) (nbits w : Nat) : State := placeInstruction (tableWord nbits w) s

end Sys2Proof.Machine
end

