-- ==== Sys2Proof/Safety.lean ====
section
/-!
DEFINITION. The words claims are stated in: which parts of the state two states share (frames), which parts an instruction
may write, when an instruction raises (spec/60_exceptions.md R130), what a sprite covers (spec/44_display.md R106), and the
invariant of every reachable state (spec/10_state.md R26).
-/

namespace Sys2Proof.Machine

/-! ## Frames -/

/-- The parts of the state, one per field. -/
inductive Part where
  | v | idx | pc | stack | sp | dt | st | fb | dirty | key | run | wait | wreg | err | trunc | mem | pending | draws | outputs
  deriving DecidableEq, Repr

/-- Part `p` is the same in `t` as in `s`: registers one by one, pixels one by one, memory byte by byte. -/
def Part.Same (p : Part) (s t : State) : Prop :=
  match p with
  | .v => ∀ x : Nibble, t.reg x = s.reg x
  | .idx => t.idx = s.idx
  | .pc => t.pc = s.pc
  | .stack => ∀ k : Fin 16, t.stack[k.val] = s.stack[k.val]
  | .sp => t.sp = s.sp
  | .dt => t.dt = s.dt
  | .st => t.st = s.st
  | .fb => ∀ r c : Nat, t.pixel r c = s.pixel r c
  | .dirty => t.dirty = s.dirty
  | .key => ∀ k : Nibble, t.keyDown k = s.keyDown k
  | .run => t.run = s.run
  | .wait => t.wait = s.wait
  | .wreg => t.wreg = s.wreg
  | .err => t.err = s.err
  | .trunc => t.trunc = s.trunc
  | .mem => ∀ a : Nat, t.byteAt a = s.byteAt a
  | .pending => t.pending = s.pending
  | .draws => t.draws = s.draws
  | .outputs => t.outputs = s.outputs

/-- Every part but those listed is the same in `t` as in `s`. -/
def SameBut (ps : List Part) (s t : State) : Prop := ∀ p : Part, p ∉ ps → p.Same s t

/-- Every register but those listed is the same in `t` as in `s`. -/
def RegsSameBut (xs : List Nibble) (s t : State) : Prop := ∀ x : Nibble, x ∉ xs → t.reg x = s.reg x

/-- The parts an instruction may write when it does not raise: the "written by" lists of R12 to R21, R30. -/
def writes : Instr → List Part
  | .cls => [.fb, .dirty, .pc]
  | .ret => [.sp, .pc]
  | .jpNnn _ => [.pc]
  | .callNnn _ => [.stack, .sp, .pc]
  | .seVxKk _ _ => [.pc]
  | .sneVxKk _ _ => [.pc]
  | .seVxVy _ _ => [.pc]
  | .ldVxKk _ _ => [.v, .pc]
  | .addVxKk _ _ => [.v, .pc]
  | .ldVxVy _ _ => [.v, .pc]
  | .orVxVy _ _ => [.v, .pc]
  | .andVxVy _ _ => [.v, .pc]
  | .xorVxVy _ _ => [.v, .pc]
  | .addVxVy _ _ => [.v, .pc]
  | .subVxVy _ _ => [.v, .pc]
  | .shrVxVy _ _ => [.v, .pc]
  | .subnVxVy _ _ => [.v, .pc]
  | .shlVxVy _ _ => [.v, .pc]
  | .sneVxVy _ _ => [.pc]
  | .ldINnn _ => [.idx, .pc]
  | .jpV0Nnn _ => [.pc]
  | .rndVxKk _ _ => [.v, .pc, .draws]
  | .drwVxVyN _ _ _ => [.v, .fb, .dirty, .pc]
  | .skpVx _ => [.pc]
  | .sknpVx _ => [.pc]
  | .ldVxDt _ => [.v, .pc]
  | .ldVxK _ => [.wait, .wreg]
  | .ldDtVx _ => [.dt, .pc]
  | .ldStVx _ => [.st, .pc]
  | .addIVx _ => [.idx, .pc]
  | .ldFVx _ => [.idx, .pc]
  | .ldBVx _ => [.mem, .pc]
  | .ldMemVx _ => [.mem, .idx, .pc]
  | .ldVxMem _ => [.v, .idx, .pc]

/-! ## Fatal errors -/

/-- `e` when the condition holds, else `none`. -/
def codeIf (c : Bool) (e : ErrorCode) : ErrorCode := if c then e else .none

/-- The fatal error an instruction raises in a state, by the table of R130; `none` where it completes. -/
def raiseCode (i : Instr) (s : State) : ErrorCode :=
  match i with
  | .ret => codeIf (s.sp.val == 0) .stackUnderflow
  | .callNnn _ => codeIf (s.sp.val == 16) .stackOverflow
  | .drwVxVyN _ _ n => codeIf (decide (0 < n.val) && decide (4095 < s.idx.toNat + n.val - 1)) .addressError
  | .ldBVx _ => codeIf (decide (4095 < s.idx.toNat + 2)) .addressError
  | .ldMemVx x => codeIf (decide (4095 < s.idx.toNat + x.val)) .addressError
  | .ldVxMem x => codeIf (decide (4095 < s.idx.toNat + x.val)) .addressError
  | .skpVx x => codeIf (decide (15 < (s.reg x).toNat)) .keyIndexError
  | .sknpVx x => codeIf (decide (15 < (s.reg x).toNat)) .keyIndexError
  | .cls => .none
  | .jpNnn _ => .none
  | .seVxKk _ _ => .none
  | .sneVxKk _ _ => .none
  | .seVxVy _ _ => .none
  | .ldVxKk _ _ => .none
  | .addVxKk _ _ => .none
  | .ldVxVy _ _ => .none
  | .orVxVy _ _ => .none
  | .andVxVy _ _ => .none
  | .xorVxVy _ _ => .none
  | .addVxVy _ _ => .none
  | .subVxVy _ _ => .none
  | .shrVxVy _ _ => .none
  | .subnVxVy _ _ => .none
  | .shlVxVy _ _ => .none
  | .sneVxVy _ _ => .none
  | .ldINnn _ => .none
  | .jpV0Nnn _ => .none
  | .rndVxKk _ _ => .none
  | .ldVxDt _ => .none
  | .ldVxK _ => .none
  | .ldDtVx _ => .none
  | .ldStVx _ => .none
  | .addIVx _ => .none
  | .ldFVx _ => .none

/-! ## Flags and differences as numbers -/

/-- The flag of R88 and R90 as a number: 1 when `a > b` strictly, else 0. -/
def greaterNat (a b : Byte) : Nat := if b.toNat < a.toNat then 1 else 0

/-- `(a - b) mod 256` of R80(b), for `a, b <= 255`. -/
def minusMod (a b : Nat) : Nat := (a + 256 - b) % 256

/-! ## Sprites -/

/-- A set bit of the sprite lies over the pixel in row `r`, column `c`: the origin wraps, the body does not, and the most
significant bit is the leftmost (R106). -/
def Covers (x y n : Nibble) (s : State) (r c : Nat) : Prop :=
  ∃ i j : Nat, i < n.val ∧ j < 8 ∧ r = (s.reg y).toNat % 32 + i ∧ c = (s.reg x).toNat % 64 + j ∧
    (s.byteAt (s.idx.toNat + i)).getLsbD (7 - j) = true

/-! ## The invariant -/

/-- What holds in every reachable state (R26, and the last corner case of R117). `SP <= 16` and the code's range are carried
by their types. -/
structure StateInv (s : State) : Prop where
  /-- memory is in its canonical form (log 6) -/
  memCanonical : s.mem.wf
  /-- R26(c) -/
  waitRuns : s.wait = true → s.run = true ∧ s.err = .none
  /-- `WREG` is the `x` field of the `Fx0A` at `pc` (R117) -/
  waitAtInstr : s.wait = true → s.pc.toNat ≤ 4094 ∧ decodeWord s.fetchWord = .ok (.ldVxK s.wreg)
  /-- R26(d) -/
  unloaded : s.run = false →
    s.dt = 0 ∧ s.st = 0 ∧ s.sp = 0 ∧ s.pc = 0x200 ∧ s.err = .none ∧ s.wait = false ∧ (∀ x : Nibble, s.reg x = 0) ∧
    s.idx = 0 ∧ (∀ r c : Nat, s.pixel r c = false) ∧ s.mem = []
  /-- R26(e) -/
  pcBound : s.pc.toNat ≤ 0x10FE
  /-- R26(f) -/
  liveEntries : ∀ k : Fin 16, k.val < s.sp.val → (s.stack[k.val]).toNat ≤ 4094

end Sys2Proof.Machine
end

