-- ==== Sys2Proof/Certificates/Slice0/Obligations.lean ====
section
/-!
DEFINITION. The statements for the provers. Each docstring names the rules it formalises. "Decision D<n>" after a clause means
that the clause follows a decision the spec marks as its own (spec/92_eei_decisions.md), not the source.
-/

open Sys2Proof Sys2Proof.Machine

/-! ## Encoding -/

/-- Words written out digit by digit from the pattern column of R51, with the fields of R47. -/
def Obligations.PatternWordsDecodeToTheirInstructions : Prop :=
  decodeWord 0x00E0 = .ok .cls ∧ decodeWord 0x00EE = .ok .ret ∧ decodeWord 0x1204 = .ok (.jpNnn 0x204) ∧
  decodeWord 0x220A = .ok (.callNnn 0x20A) ∧ decodeWord 0x4311 = .ok (.sneVxKk 3 0x11) ∧
  decodeWord 0x5120 = .ok (.seVxVy 1 2) ∧ decodeWord 0x5121 = .error (.unrecognised 0x5121) ∧
  decodeWord 0x6A2F = .ok (.ldVxKk 10 0x2F) ∧ decodeWord 0x8125 = .ok (.subVxVy 1 2) ∧
  decodeWord 0x812E = .ok (.shlVxVy 1 2) ∧ decodeWord 0xA300 = .ok (.ldINnn 0x300) ∧
  decodeWord 0xB300 = .ok (.jpV0Nnn 0x300) ∧ decodeWord 0xD125 = .ok (.drwVxVyN 1 2 5) ∧
  decodeWord 0xE0A1 = .ok (.sknpVx 0) ∧ decodeWord 0xF355 = .ok (.ldMemVx 3) ∧ decodeWord 0xF30A = .ok (.ldVxK 3)

/-- R46, R47: the word is `b0 ++ b1`, and the six fields are the nibbles and bytes of `b0`, `b1`. -/
def Obligations.FieldsAreTheBytesNibbles : Prop :=
  ∀ b0 b1 : Byte,
    highByte (wordOfBytes b0 b1) = b0 ∧ lowByte (wordOfBytes b0 b1) = b1 ∧
    (wordOfBytes b0 b1).toNat = 256 * b0.toNat + b1.toNat ∧
    (fieldOp (wordOfBytes b0 b1)).val = b0.toNat / 16 ∧
    (fieldX (wordOfBytes b0 b1)).val = b0.toNat % 16 ∧
    (fieldY (wordOfBytes b0 b1)).val = b1.toNat / 16 ∧
    (fieldN (wordOfBytes b0 b1)).val = b1.toNat % 16 ∧
    fieldKK (wordOfBytes b0 b1) = b1 ∧
    (fieldNNN (wordOfBytes b0 b1)).toNat = 256 * (b0.toNat % 16) + b1.toNat

/-- The decoder reads back every instruction from its word, and from its two bytes whatever follows them (R45, R46, R48, R51). -/
def Obligations.DecodeOfEncodeIsTheInstruction : Prop :=
  ∀ (i : Instr) (rest : List Byte),
    decodeWord (encode i) = .ok i ∧ decode (encodeBytes i ++ rest) = .ok (i, rest)

/-- No word but an instruction's own decodes to it (R57, which the spec derives). -/
def Obligations.EncodeOfDecodeIsTheWord : Prop :=
  ∀ (w : Word) (i : Instr), decodeWord w = .ok i → encode i = w

/-- The two-level decoder (R50) and the table of 34 rows (R51) agree: a row selects a word, by `w AND mask = match`, exactly when
the decoder gives that row's instruction; no word is selected by two rows (R57). -/
def Obligations.DecoderFollowsTheOpcodeMap : Prop :=
  opcodeMap.length = 34 ∧
  (∀ (w : Word) (r : OpcodeRow), r ∈ opcodeMap →
    (r.selects w = true ↔ ∃ i, decodeWord w = .ok i ∧ rowNumber i = r.number)) ∧
  (∀ (w : Word) (r r' : OpcodeRow), r ∈ opcodeMap → r' ∈ opcodeMap → r.selects w = true → r'.selects w = true → r = r')

/-- The words of R52's table, group by group, are exactly those the decoder does not recognise. -/
def Obligations.UnrecognisedWordsAreThoseListed : Prop :=
  ∀ w : Word, decodeWord w = .error (.unrecognised w) ↔
    (fieldOp w = 0x0 ∧ w ≠ 0x00E0 ∧ w ≠ 0x00EE) ∨
    (fieldOp w = 0x5 ∧ fieldN w ≠ 0) ∨
    (fieldOp w = 0x8 ∧ fieldN w ∈ [0x8, 0x9, 0xA, 0xB, 0xC, 0xD, 0xF]) ∨
    (fieldOp w = 0x9 ∧ fieldN w ≠ 0) ∨
    (fieldOp w = 0xE ∧ fieldKK w ∉ [0x9E, 0xA1]) ∨
    (fieldOp w = 0xF ∧ fieldKK w ∉ [0x07, 0x0A, 0x15, 0x18, 0x1E, 0x29, 0x33, 0x55, 0x65])

/-! ## The step -/

/-- A step runs the decoded instruction: on a loaded engine that has not failed and does not wait, when the two bytes at `pc`
decode to `i`, a step with nothing pending is `exec i`, and a step with a `Cycle` pending is `exec i` once that command is taken
off (R60 to R62; decisions D5, D7, D13 for the gates; log 3 for `pending`). A fetch is legal for `pc <= 4094`. -/
def Obligations.StepRunsTheDecodedInstruction : Prop :=
  ∀ (s : State) (i : Instr), s.run = true → s.err = .none → s.wait = false → s.pc.toNat ≤ 4094 →
    decode [s.byteAt s.pc.toNat, s.byteAt (s.pc.toNat + 1)] = .ok (i, []) →
    (s.pending = [] → step s = exec i s) ∧
    (∀ rest, s.pending = .cycle :: rest → step s = exec i { s with pending := rest })

/-- An unrecognised word at `pc` is a reported no-op: `pc + 2`, one report, nothing else (R64; D17). -/
def Obligations.UnrecognisedWordIsAReportedNoOp : Prop :=
  ∀ (s : State) (w : Word), s.run = true → s.err = .none → s.wait = false → s.pc.toNat ≤ 4094 → s.pending = [] →
    w = wordOfBytes (s.byteAt s.pc.toNat) (s.byteAt (s.pc.toNat + 1)) → decodeWord w = .error (.unrecognised w) →
    ∃ t, step s = .next t ∧ t.pc = s.pc + 2 ∧ t.outputs = .unrecognisedOpcode s.pc w :: s.outputs ∧
      SameBut [.pc, .outputs] s t

/-- A `Cycle` changes nothing at all when the engine is not loaded, has failed, or waits for a key (R60; D5, D13). -/
def Obligations.GatedCycleChangesNothing : Prop :=
  ∀ s : State, s.run = false ∨ s.err ≠ .none ∨ s.wait = true →
    (s.pending = [] → step s = .next s) ∧ (∀ rest, s.pending = .cycle :: rest → step s = .next { s with pending := rest })

/-- A fetch with `pc > 4094` raises `FetchAddressError` and changes nothing else (R61, R134; D7). -/
def Obligations.FetchBeyondMemoryRaises : Prop :=
  ∀ s : State, s.run = true → s.err = .none → s.wait = false → 4094 < s.pc.toNat → s.pending = [] →
    ∃ t, step s = .next t ∧ t.err = .fetchAddressError ∧ SameBut [.err] s t

/-- No step stops the machine: whatever the state and the command, there is a next state (R57, R66, R137, R162). -/
def Obligations.EveryStepGivesANextState : Prop :=
  ∀ s : State, ∃ t, step s = .next t

/-- What a `Cycle` can come to, as R66's closed list: idle, an instruction completed (the wait of `Fx0A` begun among them), a
report, or an error raised (`ERR` written, nothing else). -/
def Obligations.CycleHasOneOfTheListedOutcomes : Prop :=
  ∀ s t : State, cycle s = .next t →
    (t = s ∧ (s.run = false ∨ s.err ≠ .none ∨ s.wait = true)) ∨
    (s.run = true ∧ s.err = .none ∧ s.wait = false ∧
      ((∃ i, decodeWord s.fetchWord = .ok i ∧ exec i s = .next t ∧ t.err = .none ∧ SameBut (writes i) s t ∧
          (t.wait = true ↔ ∃ x, i = .ldVxK x)) ∨
        (decodeWord s.fetchWord = .error (.unrecognised s.fetchWord) ∧ t.pc = s.pc + 2 ∧
          t.outputs = .unrecognisedOpcode s.pc s.fetchWord :: s.outputs ∧ SameBut [.pc, .outputs] s t) ∨
        (t.err ≠ .none ∧ SameBut [.err] s t)))

/-! ## Reset values, invariants, whole-machine rules -/

/-- The state at power-on holds R25's values; the font bytes are whatever `FONT` is. -/
def Obligations.PowerOnHoldsTheResetValues : Prop :=
  (∀ x : Nibble, State.reset.reg x = 0) ∧ State.reset.idx = 0 ∧ State.reset.pc = 0x200 ∧
  (∀ k : Fin 16, State.reset.stack[k.val] = 0) ∧ State.reset.sp = 0 ∧ State.reset.dt = 0 ∧ State.reset.st = 0 ∧
  (∀ a : Nat, a < 80 → State.reset.byteAt a = Config.font a) ∧
  (∀ a : Nat, 80 ≤ a → State.reset.byteAt a = 0) ∧
  (∀ r c : Nat, State.reset.pixel r c = false) ∧ State.reset.dirty = true ∧ (∀ k : Nibble, State.reset.keyDown k = false) ∧
  State.reset.run = false ∧ State.reset.wait = false ∧ State.reset.wreg = 0 ∧ State.reset.err = .none ∧
  State.reset.trunc = false

/-- The invariant of R26 holds at power-on. -/
def Obligations.PowerOnMeetsTheInvariant : Prop := StateInv State.reset

/-- Every step, whatever command it performs, keeps the invariant of R26 (which the spec derives), of the canonical memory
(log 6), and of `WREG` during a wait (R117). -/
def Obligations.EveryStepKeepsTheInvariant : Prop :=
  ∀ s t : State, StateInv s → step s = .next t → StateInv t

/-- Equal memories are equal data: two canonical memories that read alike at every address are the same list (log 6). -/
def Obligations.CanonicalMemoriesThatReadAlikeAreEqual : Prop :=
  ∀ m m' : Memory, m.wf → m'.wf → (∀ a : Nat, m.read a = m'.read a) → m = m'

/-- An instruction raises exactly under R130's conditions, and then `ERR` takes the code and nothing else changes: not `pc`, no
register, no byte, no pixel (R65, R130, R140; D5, D6, D8). -/
def Obligations.RaiseWritesOnlyTheErrorCode : Prop :=
  ∀ (i : Instr) (s : State), raiseCode i s ≠ .none →
    ∃ t, exec i s = .next t ∧ t.err = raiseCode i s ∧ SameBut [.err] s t

/-- Outside R130's conditions every instruction completes and leaves `ERR`; it writes only the parts the spec lists for it
(the "written by" lists of R10 to R22 and R30; R63, R130). The conditions rest on decisions D2, D5, D6, D8, and D10 for `Dxyn` with
`n = 0`; the parts of `Fx0A` on D13. Which registers, bytes, entries and pixels change is stated instruction by instruction. -/
def Obligations.InstructionsWriteOnlyTheirParts : Prop :=
  ∀ (i : Instr) (s : State), raiseCode i s = .none → ∃ t, exec i s = .next t ∧ SameBut (writes i) s t

/-- No return from a fatal error: while `ERR` is set (and no wait is on, R26(c)), a step performing any command but `Reset` and
`Load` leaves `ERR`, `pc`, `V`, `I`, `SP`, `STACK`, `MEM`, `FB`, `RUN`; `Reset` and `Load` clear it (R140, R141; D5). -/
def Obligations.FatalErrorIsLeftOnlyByResetOrLoad : Prop :=
  ∀ s t : State, s.err ≠ .none → s.wait = false → step s = .next t →
    (t.err = .none ∧ (s.pending.head? = some .reset ∨ ∃ bytes, s.pending.head? = some (.load bytes))) ∨
    SameBut [.dt, .st, .key, .dirty, .outputs, .pending] s t

/-- `DIRTY` is cleared only by `Render` (R17, R109, R147). -/
def Obligations.DirtyIsClearedOnlyByRender : Prop :=
  ∀ s t : State, step s = .next t → s.dirty = true → t.dirty = false → s.pending.head? = some .render

/-- The key latch is written only by `SetKey`, and only at its key; `Reset` and `Load` leave it (R18). -/
def Obligations.KeyLatchIsWrittenOnlyBySetKey : Prop :=
  ∀ (s t : State) (k : Nibble), step s = .next t → t.keyDown k ≠ s.keyDown k →
    s.pending.head? = some (.setKey k (t.keyDown k))

/-- `RUN` is set only by `Load` and cleared only by `Reset`; the wait is begun only by a `Cycle` and ended only by a press edge,
`Reset` or `Load` (R19, R20, R151; D13, D14). -/
def Obligations.RunAndWaitChangeOnlyByTheirCommands : Prop :=
  ∀ s t : State, step s = .next t →
    (s.run = false → t.run = true → ∃ bytes, s.pending.head? = some (.load bytes)) ∧
    (s.run = true → t.run = false → s.pending.head? = some .reset) ∧
    (s.wait = false → t.wait = true → s.pending = [] ∨ s.pending.head? = some .cycle) ∧
    (s.wait = true → t.wait = false →
      (∃ k, s.pending.head? = some (.setKey k true) ∧ s.keyDown k = false) ∨
      s.pending.head? = some .reset ∨ ∃ bytes, s.pending.head? = some (.load bytes))

/-! ## Control transfer -/

/-- R72: `1nnn` is encoded `op = 1`, `nnn`, and sets `pc` to `nnn`, nothing else. -/
def Obligations.JumpSetsPcToItsAddress : Prop :=
  ∀ (nnn : Addr) (s : State),
    (encode (.jpNnn nnn)).toNat = 0x1000 + nnn.toNat ∧ decodeWord (encode (.jpNnn nnn)) = .ok (.jpNnn nnn) ∧
    ∃ t, exec (.jpNnn nnn) s = .next t ∧ t.pc.toNat = nnn.toNat ∧ SameBut [.pc] s t

/-- R73: `Bnnn` is encoded `op = B`, `nnn`, and sets `pc` to `nnn + V[0]`, not reduced, whatever the `x` nibble; nothing else. -/
def Obligations.OffsetJumpAddsRegisterZero : Prop :=
  ∀ (nnn : Addr) (s : State),
    (encode (.jpV0Nnn nnn)).toNat = 0xB000 + nnn.toNat ∧ decodeWord (encode (.jpV0Nnn nnn)) = .ok (.jpV0Nnn nnn) ∧
    ∃ t, exec (.jpV0Nnn nnn) s = .next t ∧ t.pc.toNat = nnn.toNat + (s.reg 0).toNat ∧ SameBut [.pc] s t

/-- R74: `2nnn` with a free entry pushes its own address (D4) and goes to `nnn`; the other entries, and all else, stay. -/
def Obligations.CallPushesItsOwnAddress : Prop :=
  ∀ (nnn : Addr) (s : State) (top : Fin 16), s.sp.val = top.val →
    ∃ t, exec (.callNnn nnn) s = .next t ∧ t.pc.toNat = nnn.toNat ∧ t.sp.val = s.sp.val + 1 ∧
      t.stack[top.val] = s.pc ∧ (∀ k : Fin 16, k ≠ top → t.stack[k.val] = s.stack[k.val]) ∧
      SameBut [.pc, .sp, .stack] s t

/-- R71: `00EE` with a live entry pops it and goes to the popped address plus 2 (D4); the entry stays in `STACK`. -/
def Obligations.ReturnGoesPastTheMatchingCall : Prop :=
  ∀ (s : State) (top : Fin 16), s.sp.val = top.val + 1 →
    ∃ t, exec .ret s = .next t ∧ t.sp.val = top.val ∧ t.pc = s.stack[top.val] + 2 ∧ SameBut [.pc, .sp] s t

/-- R131, R132: `2nnn` on a full stack raises `StackOverflow`, `00EE` on an empty one `StackUnderflow`; nothing but `ERR` changes
(D5). -/
def Obligations.StackBoundsRaise : Prop :=
  (∀ (nnn : Addr) (s : State), s.sp.val = 16 →
    ∃ t, exec (.callNnn nnn) s = .next t ∧ t.err = .stackOverflow ∧ SameBut [.err] s t) ∧
  (∀ s : State, s.sp.val = 0 → ∃ t, exec .ret s = .next t ∧ t.err = .stackUnderflow ∧ SameBut [.err] s t)

/-- A return undoes the call it matches: from any state the callee reaches with the caller's depth and entry intact, `00EE`
resumes at the instruction after the call, at the caller's depth (R71, R74; D4). -/
def Obligations.ReturnResumesAfterTheCall : Prop :=
  ∀ (nnn : Addr) (s t u : State), s.sp.val < 16 → exec (.callNnn nnn) s = .next t → u.sp = t.sp →
    (∀ k : Fin 16, k.val < t.sp.val → u.stack[k.val] = t.stack[k.val]) →
    ∃ r, exec .ret u = .next r ∧ r.pc = s.pc + 2 ∧ r.sp = s.sp ∧
      (∀ k : Fin 16, k.val < s.sp.val → r.stack[k.val] = s.stack[k.val])

/-- R75, R76: `3xkk` skips exactly when `V[x] = kk`, `4xkk` exactly when not; nothing but `pc` changes. -/
def Obligations.ImmediateSkipsCompareRegisterAndImmediate : Prop :=
  ∀ (x : Nibble) (kk : Byte) (s : State),
    (encode (.seVxKk x kk)).toNat = 0x3000 + 256 * x.val + kk.toNat ∧
    (encode (.sneVxKk x kk)).toNat = 0x4000 + 256 * x.val + kk.toNat ∧
    (∃ t, exec (.seVxKk x kk) s = .next t ∧ SameBut [.pc] s t ∧
      ((s.reg x).toNat = kk.toNat → t.pc = s.pc + 4) ∧ ((s.reg x).toNat ≠ kk.toNat → t.pc = s.pc + 2)) ∧
    (∃ t, exec (.sneVxKk x kk) s = .next t ∧ SameBut [.pc] s t ∧
      ((s.reg x).toNat ≠ kk.toNat → t.pc = s.pc + 4) ∧ ((s.reg x).toNat = kk.toNat → t.pc = s.pc + 2))

/-- R77, R78: `5xy0` skips exactly when `V[x] = V[y]`, `9xy0` exactly when not; `5xyn`, `9xyn` with `n != 0` are unrecognised;
nothing but `pc` changes. -/
def Obligations.RegisterSkipsCompareTwoRegisters : Prop :=
  ∀ (x y : Nibble) (s : State),
    (encode (.seVxVy x y)).toNat = 0x5000 + 256 * x.val + 16 * y.val ∧
    (encode (.sneVxVy x y)).toNat = 0x9000 + 256 * x.val + 16 * y.val ∧
    (∀ n : Nibble, n ≠ 0 → decodeWord (formatXYN 0x5 x y n) = .error (.unrecognised (formatXYN 0x5 x y n)) ∧
      decodeWord (formatXYN 0x9 x y n) = .error (.unrecognised (formatXYN 0x9 x y n))) ∧
    (∃ t, exec (.seVxVy x y) s = .next t ∧ SameBut [.pc] s t ∧
      ((s.reg x).toNat = (s.reg y).toNat → t.pc = s.pc + 4) ∧ ((s.reg x).toNat ≠ (s.reg y).toNat → t.pc = s.pc + 2)) ∧
    (∃ t, exec (.sneVxVy x y) s = .next t ∧ SameBut [.pc] s t ∧
      ((s.reg x).toNat ≠ (s.reg y).toNat → t.pc = s.pc + 4) ∧ ((s.reg x).toNat = (s.reg y).toNat → t.pc = s.pc + 2))

/-! ## Registers -/

/-- R81, R82, R83: `6xkk` loads, `7xkk` adds modulo 256 and touches no flag, `8xy0` copies; `pc + 2`; no other register, `VF`
included unless it is `Vx`, and nothing else changes. -/
def Obligations.LoadAddCopyWriteOneRegister : Prop :=
  ∀ (x y : Nibble) (kk : Byte) (s : State),
    (encode (.ldVxKk x kk)).toNat = 0x6000 + 256 * x.val + kk.toNat ∧
    (encode (.addVxKk x kk)).toNat = 0x7000 + 256 * x.val + kk.toNat ∧
    (encode (.ldVxVy x y)).toNat = 0x8000 + 256 * x.val + 16 * y.val ∧
    (∃ t, exec (.ldVxKk x kk) s = .next t ∧ t.reg x = kk ∧
      RegsSameBut [x] s t ∧ t.pc = s.pc + 2 ∧ SameBut [.v, .pc] s t) ∧
    (∃ t, exec (.addVxKk x kk) s = .next t ∧ (t.reg x).toNat = ((s.reg x).toNat + kk.toNat) % 256 ∧
      RegsSameBut [x] s t ∧ t.pc = s.pc + 2 ∧ SameBut [.v, .pc] s t) ∧
    (∃ t, exec (.ldVxVy x y) s = .next t ∧ t.reg x = s.reg y ∧
      RegsSameBut [x] s t ∧ t.pc = s.pc + 2 ∧ SameBut [.v, .pc] s t)

/-- R84, R85, R86: OR, AND, XOR into `Vx`, then `VF <- 0` always (for `x = F` the result is lost, for `y = F` the old `VF` is the
operand: D9). -/
def Obligations.LogicOperationsClearTheFlag : Prop :=
  ∀ (x y : Nibble) (s : State),
    (∃ t, exec (.orVxVy x y) s = .next t ∧ (x ≠ 15 → ∀ b : Nat, (t.reg x).getLsbD b = ((s.reg x).getLsbD b || (s.reg y).getLsbD b)) ∧
      t.reg 15 = 0 ∧ RegsSameBut [x, 15] s t ∧ t.pc = s.pc + 2 ∧ SameBut [.v, .pc] s t) ∧
    (∃ t, exec (.andVxVy x y) s = .next t ∧ (x ≠ 15 → ∀ b : Nat, (t.reg x).getLsbD b = ((s.reg x).getLsbD b && (s.reg y).getLsbD b)) ∧
      t.reg 15 = 0 ∧ RegsSameBut [x, 15] s t ∧ t.pc = s.pc + 2 ∧ SameBut [.v, .pc] s t) ∧
    (∃ t, exec (.xorVxVy x y) s = .next t ∧ (x ≠ 15 → ∀ b : Nat, (t.reg x).getLsbD b = ((s.reg x).getLsbD b ^^ (s.reg y).getLsbD b)) ∧
      t.reg 15 = 0 ∧ RegsSameBut [x, 15] s t ∧ t.pc = s.pc + 2 ∧ SameBut [.v, .pc] s t)

/-- R87: the sum modulo 256 into `Vx`, then the carry into `VF` (for `x = F` the sum is lost: D9). -/
def Obligations.AddRegistersSetsTheCarry : Prop :=
  ∀ (x y : Nibble) (s : State), ∃ t, exec (.addVxVy x y) s = .next t ∧
    (x ≠ 15 → (t.reg x).toNat = ((s.reg x).toNat + (s.reg y).toNat) % 256) ∧
    (255 < (s.reg x).toNat + (s.reg y).toNat → t.reg 15 = 1) ∧
    ((s.reg x).toNat + (s.reg y).toNat ≤ 255 → t.reg 15 = 0) ∧
    RegsSameBut [x, 15] s t ∧ t.pc = s.pc + 2 ∧ SameBut [.v, .pc] s t

/-- R88: the strict greater-than into `VF`, then `Vx - Vy` modulo 256, with the aliasing table of R88 (the cases with `x = F` or
`y = F` follow D9): with `y = F` the new flag is subtracted, with `x = F` the flag is lost. -/
def Obligations.SubtractByAliasingCase : Prop :=
  ∀ (x y : Nibble) (s : State), ∃ t, exec (.subVxVy x y) s = .next t ∧
    (x ≠ 15 → y ≠ 15 → (t.reg 15).toNat = greaterNat (s.reg x) (s.reg y) ∧
      (t.reg x).toNat = minusMod (s.reg x).toNat (s.reg y).toNat) ∧
    (x = 15 → y ≠ 15 → (t.reg 15).toNat = minusMod (greaterNat (s.reg 15) (s.reg y)) (s.reg y).toNat) ∧
    (x ≠ 15 → y = 15 → (t.reg 15).toNat = greaterNat (s.reg x) (s.reg 15) ∧
      (t.reg x).toNat = minusMod (s.reg x).toNat (greaterNat (s.reg x) (s.reg 15))) ∧
    (x = 15 → y = 15 → (t.reg 15).toNat = 0) ∧
    RegsSameBut [x, 15] s t ∧ t.pc = s.pc + 2 ∧ SameBut [.v, .pc] s t

/-- R90: as R88 with the operands exchanged. -/
def Obligations.ReverseSubtractByAliasingCase : Prop :=
  ∀ (x y : Nibble) (s : State), ∃ t, exec (.subnVxVy x y) s = .next t ∧
    (x ≠ 15 → y ≠ 15 → (t.reg 15).toNat = greaterNat (s.reg y) (s.reg x) ∧
      (t.reg x).toNat = minusMod (s.reg y).toNat (s.reg x).toNat) ∧
    (x = 15 → y ≠ 15 → (t.reg 15).toNat = minusMod (s.reg y).toNat (greaterNat (s.reg y) (s.reg 15))) ∧
    (x ≠ 15 → y = 15 → (t.reg 15).toNat = greaterNat (s.reg 15) (s.reg x) ∧
      (t.reg x).toNat = minusMod (greaterNat (s.reg 15) (s.reg x)) (s.reg x).toNat) ∧
    (x = 15 → y = 15 → (t.reg 15).toNat = 0) ∧
    RegsSameBut [x, 15] s t ∧ t.pc = s.pc + 2 ∧ SameBut [.v, .pc] s t

/-- R89: `Vy` is copied first, bit 0 goes to `VF`, the copy is shifted right by one; with `x = F` the final `VF` is 0 (D9). -/
def Obligations.ShiftRightByAliasingCase : Prop :=
  ∀ (x y : Nibble) (s : State), ∃ t, exec (.shrVxVy x y) s = .next t ∧
    (x ≠ 15 → (t.reg x).toNat = (s.reg y).toNat / 2 ∧ (t.reg 15).toNat = (s.reg y).toNat % 2) ∧
    (x = 15 → t.reg 15 = 0) ∧
    RegsSameBut [x, 15] s t ∧ t.pc = s.pc + 2 ∧ SameBut [.v, .pc] s t

/-- R91: `Vy` is copied first, bit 7 goes to `VF`, the copy is shifted left by one; with `x = F` the final `VF` is 2 when bit 7 of
the old `Vy` is 1, else 0 (D9). -/
def Obligations.ShiftLeftByAliasingCase : Prop :=
  ∀ (x y : Nibble) (s : State), ∃ t, exec (.shlVxVy x y) s = .next t ∧
    (x ≠ 15 → (t.reg x).toNat = (s.reg y).toNat * 2 % 256 ∧ (t.reg 15).toNat = (s.reg y).toNat / 128) ∧
    (x = 15 → (t.reg 15).toNat = 2 * ((s.reg y).toNat / 128)) ∧
    RegsSameBut [x, 15] s t ∧ t.pc = s.pc + 2 ∧ SameBut [.v, .pc] s t

/-- R92: `Vx` takes the draw ANDed with `kk`, so no bit that `kk` lacks, whatever the draw; a further draw is another (D12; the
draw is the free value of log 2). -/
def Obligations.RandomByteIsMasked : Prop :=
  ∀ (x : Nibble) (kk : Byte) (s : State), ∃ t, exec (.rndVxKk x kk) s = .next t ∧
    (∀ b : Nat, (t.reg x).getLsbD b = ((Config.randomByte s.draws).getLsbD b && kk.getLsbD b)) ∧
    t.draws = s.draws + 1 ∧ RegsSameBut [x] s t ∧ t.pc = s.pc + 2 ∧ SameBut [.v, .pc, .draws] s t

/-! ## Index register and memory -/

/-- R95: `I <- nnn`, `pc + 2`, nothing else. -/
def Obligations.LoadIndexTakesTheAddress : Prop :=
  ∀ (nnn : Addr) (s : State),
    (encode (.ldINnn nnn)).toNat = 0xA000 + nnn.toNat ∧ decodeWord (encode (.ldINnn nnn)) = .ok (.ldINnn nnn) ∧
    ∃ t, exec (.ldINnn nnn) s = .next t ∧ t.idx.toNat = nnn.toNat ∧ t.pc = s.pc + 2 ∧ SameBut [.idx, .pc] s t

/-- R96, R97: `Fx1E` adds the whole of `Vx` to `I` modulo 65536 (D20) and writes no flag; `Fx29` sets `I` to 5 times the whole
of `Vx`. -/
def Obligations.IndexArithmetic : Prop :=
  ∀ (x : Nibble) (s : State),
    (∃ t, exec (.addIVx x) s = .next t ∧ t.idx.toNat = (s.idx.toNat + (s.reg x).toNat) % 65536 ∧ t.pc = s.pc + 2 ∧
      SameBut [.idx, .pc] s t) ∧
    (∃ t, exec (.ldFVx x) s = .next t ∧ t.idx.toNat = 5 * (s.reg x).toNat ∧ t.pc = s.pc + 2 ∧ SameBut [.idx, .pc] s t)

/-- R98: with `I + 2` in memory, `Fx33` stores three digits 0..9 whose number is `Vx`, at `I`, `I + 1`, `I + 2`; every other byte,
`I` and all else stay. -/
def Obligations.DecimalDigitsAreStored : Prop :=
  ∀ (x : Nibble) (s : State), s.idx.toNat + 2 ≤ 4095 →
    ∃ t, exec (.ldBVx x) s = .next t ∧
      100 * (t.byteAt (s.ea 0)).toNat + 10 * (t.byteAt (s.ea 1)).toNat + (t.byteAt (s.ea 2)).toNat = (s.reg x).toNat ∧
      (t.byteAt (s.ea 0)).toNat ≤ 2 ∧ (t.byteAt (s.ea 1)).toNat ≤ 9 ∧ (t.byteAt (s.ea 2)).toNat ≤ 9 ∧
      (∀ a : Nat, a ≠ s.ea 0 → a ≠ s.ea 1 → a ≠ s.ea 2 → t.byteAt a = s.byteAt a) ∧
      t.pc = s.pc + 2 ∧ SameBut [.mem, .pc] s t

/-- R99: with `I + x` in memory, `Fx55` stores `V[k]` at `I + k` for every `k <= x`, and adds `x + 1` to `I` (modulo 65536, D20);
every other byte and all else stay. -/
def Obligations.RegistersAreStoredInOrder : Prop :=
  ∀ (x : Nibble) (s : State), s.idx.toNat + x.val ≤ 4095 →
    ∃ t, exec (.ldMemVx x) s = .next t ∧
      (∀ k : Nibble, k ≤ x → t.byteAt (s.ea k.val) = s.reg k) ∧
      (∀ a : Nat, (∀ k : Nibble, k ≤ x → a ≠ s.ea k.val) → t.byteAt a = s.byteAt a) ∧
      t.idx.toNat = s.idx.toNat + x.val + 1 ∧ t.pc = s.pc + 2 ∧ SameBut [.mem, .idx, .pc] s t

/-- R100: with `I + x` in memory, `Fx65` loads `V[k]` from `I + k` for every `k <= x`, and adds `x + 1` to `I`; the registers
above `x`, memory and all else stay. -/
def Obligations.RegistersAreLoadedInOrder : Prop :=
  ∀ (x : Nibble) (s : State), s.idx.toNat + x.val ≤ 4095 →
    ∃ t, exec (.ldVxMem x) s = .next t ∧
      (∀ k : Nibble, k ≤ x → t.reg k = s.byteAt (s.ea k.val)) ∧ (∀ k : Nibble, x < k → t.reg k = s.reg k) ∧
      t.idx.toNat = s.idx.toNat + x.val + 1 ∧ t.pc = s.pc + 2 ∧ SameBut [.v, .idx, .pc] s t

/-- R35, R133: an access through `I` whose highest address exceeds 4095 raises `AddressError` before anything moves; the bound is
on the unbounded integer `I + k`; `Dxyn` checks all its `n` rows (D6). -/
def Obligations.AccessBeyondMemoryRaises : Prop :=
  ∀ (x y n : Nibble) (s : State),
    (4095 < s.idx.toNat + 2 → ∃ t, exec (.ldBVx x) s = .next t ∧ t.err = .addressError ∧ SameBut [.err] s t) ∧
    (4095 < s.idx.toNat + x.val → ∃ t, exec (.ldMemVx x) s = .next t ∧ t.err = .addressError ∧ SameBut [.err] s t) ∧
    (4095 < s.idx.toNat + x.val → ∃ t, exec (.ldVxMem x) s = .next t ∧ t.err = .addressError ∧ SameBut [.err] s t) ∧
    (0 < n.val → 4095 < s.idx.toNat + n.val - 1 →
      ∃ t, exec (.drwVxVyN x y n) s = .next t ∧ t.err = .addressError ∧ SameBut [.err] s t)

/-- R99, R100 together: what `Fx55` stored, `Fx65` with the same `x` and with `I` back where it was restores, into any register
contents; that load completes. -/
def Obligations.LoadRestoresWhatStoreSaved : Prop :=
  ∀ (x : Nibble) (s t u : State), s.idx.toNat + x.val ≤ 4095 → exec (.ldMemVx x) s = .next t →
    u.idx = s.idx → (∀ a : Nat, u.byteAt a = t.byteAt a) →
    ∃ r, exec (.ldVxMem x) u = .next r ∧ (∀ k : Nibble, k ≤ x → r.reg k = s.reg k) ∧ r.idx = t.idx

/-- R31, R97: `Fx29` points `I` at the five bytes of glyph `Vx`, for every `FONT` (log 1), while the font is as `Reset` left it. -/
def Obligations.FontPointerFindsTheGlyph : Prop :=
  ∀ (x : Nibble) (s : State) (row : Nat), (s.reg x).toNat ≤ 15 → row < 5 →
    (∀ a : Nat, a < 80 → s.byteAt a = State.reset.byteAt a) →
    ∃ t, exec (.ldFVx x) s = .next t ∧ t.byteAt (t.ea row) = Config.font (5 * (s.reg x).toNat + row)

/-! ## Display -/

/-- R105: `00E0` turns every pixel off and sets `DIRTY`, also on a blank surface (D11); `pc + 2`, nothing else. -/
def Obligations.ClearTurnsEveryPixelOff : Prop :=
  ∀ s : State, ∃ t, exec .cls s = .next t ∧ (∀ r c : Nat, t.pixel r c = false) ∧ t.dirty = true ∧ t.pc = s.pc + 2 ∧
    SameBut [.fb, .dirty, .pc] s t

/-- R106, R108: `Dxyn` XORs the sprite onto the surface: a pixel of the surface toggles exactly when a set sprite bit covers it,
with the origin wrapped and the body clipped; `VF` is 1 exactly when a covered pixel of the surface was on, else 0; `DIRTY` is
set exactly when a pixel of the surface is covered, else kept. With `n = 0` nothing is read or drawn, `VF <- 0` (D10). The origin
is read before `VF` is written (D10). No other register, `I`, memory or anything else changes. -/
def Obligations.DrawXorsTheSpriteOntoTheSurface : Prop :=
  ∀ (x y n : Nibble) (s : State), n.val = 0 ∨ s.idx.toNat + n.val - 1 ≤ 4095 →
    ∃ t, exec (.drwVxVyN x y n) s = .next t ∧
      (∀ r c : Nat, r < 32 → c < 64 →
        (Covers x y n s r c → t.pixel r c = !s.pixel r c) ∧ (¬ Covers x y n s r c → t.pixel r c = s.pixel r c)) ∧
      ((∃ r c : Nat, r < 32 ∧ c < 64 ∧ Covers x y n s r c ∧ s.pixel r c = true) → t.reg 15 = 1) ∧
      (¬ (∃ r c : Nat, r < 32 ∧ c < 64 ∧ Covers x y n s r c ∧ s.pixel r c = true) → t.reg 15 = 0) ∧
      (t.dirty = true ↔ s.dirty = true ∨ ∃ r c : Nat, r < 32 ∧ c < 64 ∧ Covers x y n s r c) ∧
      RegsSameBut [15] s t ∧ t.pc = s.pc + 2 ∧ SameBut [.v, .fb, .dirty, .pc] s t

/-- R107(a), which the spec derives: the second of two equal draws at the same origin restores every pixel, and gives `VF = 1`
exactly when the sprite has a visible set bit that the first draw left on (for an origin not taken from `VF`, which the first draw
rewrites). -/
def Obligations.DrawingTwiceRestoresTheSurface : Prop :=
  ∀ (x y n : Nibble) (s t : State), x ≠ 15 → y ≠ 15 → n.val = 0 ∨ s.idx.toNat + n.val - 1 ≤ 4095 →
    exec (.drwVxVyN x y n) s = .next t →
    ∃ u, exec (.drwVxVyN x y n) t = .next u ∧ (∀ r c : Nat, u.pixel r c = s.pixel r c) ∧
      (u.reg 15 = 1 ↔ ∃ r c : Nat, r < 32 ∧ c < 64 ∧ Covers x y n s r c ∧ t.pixel r c = true)

/-! ## Keypad and timers -/

/-- R115, R116: with a legal key number in `Vx`, `Ex9E` skips exactly when that key is down and `ExA1` exactly when it is up;
nothing but `pc` changes. -/
def Obligations.KeySkipsReadTheLatch : Prop :=
  ∀ (x k : Nibble) (s : State), (s.reg x).toNat = k.val →
    (∃ t, exec (.skpVx x) s = .next t ∧ SameBut [.pc] s t ∧
      (s.keyDown k = true → t.pc = s.pc + 4) ∧ (s.keyDown k = false → t.pc = s.pc + 2)) ∧
    (∃ t, exec (.sknpVx x) s = .next t ∧ SameBut [.pc] s t ∧
      (s.keyDown k = false → t.pc = s.pc + 4) ∧ (s.keyDown k = true → t.pc = s.pc + 2))

/-- R135: a key number above 15 raises `KeyIndexError` in `Ex9E` and `ExA1`; nothing but `ERR` changes (D8). -/
def Obligations.KeyNumberAboveFifteenRaises : Prop :=
  ∀ (x : Nibble) (s : State), 15 < (s.reg x).toNat →
    (∃ t, exec (.skpVx x) s = .next t ∧ t.err = .keyIndexError ∧ SameBut [.err] s t) ∧
    (∃ t, exec (.sknpVx x) s = .next t ∧ t.err = .keyIndexError ∧ SameBut [.err] s t)

/-- R118, R119, R120: `Fx07` reads `DT`, `Fx15` writes it, `Fx18` writes `ST`; `pc + 2`, nothing else (that no sound comes out of it
is decision D22). -/
def Obligations.TimerInstructionsMoveOneByte : Prop :=
  ∀ (x : Nibble) (s : State),
    (encode (.ldVxDt x)).toNat = 0xF007 + 256 * x.val ∧ (encode (.ldDtVx x)).toNat = 0xF015 + 256 * x.val ∧
    (encode (.ldStVx x)).toNat = 0xF018 + 256 * x.val ∧
    (∃ t, exec (.ldVxDt x) s = .next t ∧ t.reg x = s.dt ∧ RegsSameBut [x] s t ∧ t.pc = s.pc + 2 ∧ SameBut [.v, .pc] s t) ∧
    (∃ t, exec (.ldDtVx x) s = .next t ∧ t.dt = s.reg x ∧ t.pc = s.pc + 2 ∧ SameBut [.dt, .pc] s t) ∧
    (∃ t, exec (.ldStVx x) s = .next t ∧ t.st = s.reg x ∧ t.pc = s.pc + 2 ∧ SameBut [.st, .pc] s t)

/-- R117, part 1: `Fx0A` begins the wait and latches `x`; `pc` stays and no register is written (D13). -/
def Obligations.KeyWaitBegins : Prop :=
  ∀ (x : Nibble) (s : State), ∃ t, exec (.ldVxK x) s = .next t ∧ t.wait = true ∧ t.wreg = x ∧ SameBut [.wait, .wreg] s t

/-! ## The commands of the other agents -/

/-- R146: a `SetKey` is one of four cases: the press edge that completes a pending `Fx0A` (R117, part 2), the press edge with no
wait on, a press of a key already down, a release (D13). It is the pending command a step performs. -/
def Obligations.SetKeyByCase : Prop :=
  ∀ (s : State) (k : Nibble) (p : Bool) (rest : List Command), s.pending = .setKey k p :: rest →
    ∃ t, step s = .next t ∧ t.pending = rest ∧
      (p = true → s.keyDown k = false → s.wait = true →
        t.keyDown k = true ∧ (∀ j : Nibble, j ≠ k → t.keyDown j = s.keyDown j) ∧
        (t.reg s.wreg).toNat = k.val ∧ RegsSameBut [s.wreg] s t ∧ t.wait = false ∧ t.pc = s.pc + 2 ∧
        SameBut [.key, .v, .wait, .pc, .pending] s t) ∧
      (p = true → s.keyDown k = false → s.wait = false →
        t.keyDown k = true ∧ (∀ j : Nibble, j ≠ k → t.keyDown j = s.keyDown j) ∧ SameBut [.key, .pending] s t) ∧
      (p = true → s.keyDown k = true → SameBut [.pending] s t) ∧
      (p = false → t.keyDown k = false ∧ (∀ j : Nibble, j ≠ k → t.keyDown j = s.keyDown j) ∧ SameBut [.key, .pending] s t)

/-- R144: a `Tick` on a loaded engine takes 1 from each timer that is not 0, in a wait and after a fatal error too; unloaded it
does nothing (D16). Each counter moves whatever the other holds. -/
def Obligations.TickCountsBothTimersDown : Prop :=
  ∀ (s : State) (rest : List Command), s.pending = .tick :: rest →
    ∃ t, step s = .next t ∧ t.pending = rest ∧ SameBut [.dt, .st, .pending] s t ∧
      (s.run = true → t.dt.toNat = s.dt.toNat - 1 ∧ t.st.toNat = s.st.toNat - 1) ∧
      (s.run = false → t.dt = s.dt ∧ t.st = s.st)

/-- R147: a `Render` outputs a copy of the surface and clears `DIRTY` when it was set, and does nothing when not (D23). -/
def Obligations.RenderOutputsADirtySurface : Prop :=
  ∀ (s : State) (rest : List Command), s.pending = .render :: rest →
    ∃ t, step s = .next t ∧ t.pending = rest ∧ t.dirty = false ∧ SameBut [.dirty, .outputs, .pending] s t ∧
      (s.dirty = true → t.outputs = .frame s.fb :: s.outputs) ∧ (s.dirty = false → t.outputs = s.outputs)

/-- R160: a `Reset`, in any state, leaves every element at its reset value but the key latch (D11, D14, D25); the model's own
fields stay (logs 2, 3, 4). -/
def Obligations.ResetCommandRestoresAllButTheKeys : Prop :=
  ∀ (s : State) (rest : List Command), s.pending = .reset :: rest →
    ∃ t, step s = .next t ∧ t.pending = rest ∧ t.draws = s.draws ∧ t.outputs = s.outputs ∧
      (∀ k : Nibble, t.keyDown k = s.keyDown k) ∧ (∀ x : Nibble, t.reg x = 0) ∧ t.idx = 0 ∧ t.pc = 0x200 ∧
      (∀ k : Fin 16, t.stack[k.val] = 0) ∧ t.sp = 0 ∧ t.dt = 0 ∧ t.st = 0 ∧
      (∀ a : Nat, a < 80 → t.byteAt a = Config.font a) ∧ (∀ a : Nat, 80 ≤ a → t.byteAt a = 0) ∧
      (∀ r c : Nat, t.pixel r c = false) ∧ t.dirty = true ∧ t.run = false ∧ t.wait = false ∧ t.wreg = 0 ∧
      t.err = .none ∧ t.trunc = false

/-- R162, R163: a `Load`, in any state, resets, copies at most 3584 bytes to 0x200 on, drops the rest with a warning, and makes
the engine runnable; every other byte is as `Reset` leaves it, and so is all else (D15, D25). -/
def Obligations.LoadCopiesTheRomAndRuns : Prop :=
  ∀ (s : State) (bytes : List Byte) (rest : List Command), s.pending = .load bytes :: rest →
    ∃ t, step s = .next t ∧ t.pending = rest ∧
      (∀ i : Nat, i < bytes.length → i < 3584 → t.byteAt (0x200 + i) = bytes.getD i 0) ∧
      (∀ a : Nat, a < 0x200 ∨ 0x200 + min bytes.length 3584 ≤ a → t.byteAt a = State.reset.byteAt a) ∧
      (t.trunc = true ↔ 3584 < bytes.length) ∧ t.run = true ∧ (∀ k : Nibble, t.keyDown k = s.keyDown k) ∧
      t.draws = s.draws ∧ t.outputs = s.outputs ∧
      SameBut [.mem, .trunc, .run, .key, .pending, .draws, .outputs] State.reset t
end

