-- ==== Sys2Proof/Laws/Memory.lean ====
section
/-!
SUPPORT. Memory's laws (spec/20_memory.md R37): a read after a write, and that every operation keeps the canonical form.
-/

namespace Sys2Proof.Laws

open Sys2Proof.Machine

/-- Reading a canonical tail: an address below all its cells is not listed. -/
theorem read_eq_blank {m : Memory} {a : Nat} (h : ∀ p ∈ m, p.1 ≠ a) : m.read a = Config.resetByte a := by
  induction m with
  | nil => rfl
  | cons p rest ih =>
    have hp : a ≠ p.1 := fun e => h p (by simp) e.symm
    simp only [Memory.read, hp, if_false]
    exact ih fun q hq => h q (List.mem_cons_of_mem _ hq)

theorem read_insertCell (m : Memory) (a b : Nat) (u : Byte) :
    (insertCell m a u).read b = if b = a then u else m.read b := by
  induction m with
  | nil => simp [insertCell, Memory.read]
  | cons p rest ih =>
    simp only [insertCell]
    by_cases h1 : a < p.1
    · simp [h1, Memory.read]
    · by_cases h2 : a = p.1
      · subst h2
        by_cases h3 : b = p.1 <;> simp [Memory.read, h3]
      · by_cases h3 : b = p.1
        · have : b ≠ a := by omega
          simp [h1, h2, Memory.read, h3, show p.1 ≠ a by omega]
        · simp [h1, h2, Memory.read, h3, ih]

theorem read_removeCell (m : Memory) (a b : Nat) :
    Memory.read (removeCell m a) b = if b = a then Config.resetByte a else m.read b := by
  induction m with
  | nil => by_cases h : b = a <;> simp [removeCell, Memory.read, h]
  | cons p rest ih =>
    simp only [removeCell]
    by_cases h2 : a = p.1
    · subst h2
      by_cases h3 : b = p.1
      · rw [h3] at ih ⊢
        simpa using ih
      · simp [Memory.read, h3, ih]
    · by_cases h3 : b = p.1
      · simp [h2, Memory.read, h3, show p.1 ≠ a from fun e => h2 e.symm]
      · simp [h2, Memory.read, h3, ih]

/-- A write is seen by a read of that byte and no other (R37). -/
theorem read_write (m : Memory) (a b : Nat) (u : Byte) :
    (m.write a u).read b = if b = a ∧ a < 4096 then u else m.read b := by
  unfold Memory.write
  by_cases ha : a < Config.memSize
  · have ha' : a < 4096 := ha
    by_cases hu : u = Config.resetByte a
    · simp [ha, ha', ← hu, read_removeCell]
    · simp [ha, ha', hu, read_insertCell]
  · have ha' : ¬ a < 4096 := ha
    simp [ha, ha']

theorem read_write_same {m : Memory} {a : Nat} (u : Byte) (h : a < 4096) : (m.write a u).read a = u := by
  simp [read_write, h]

theorem read_write_other (m : Memory) {a b : Nat} (u : Byte) (h : b ≠ a) : (m.write a u).read b = m.read b := by
  simp [read_write, h]

theorem mem_insertCell {m : Memory} {a : Nat} {u : Byte} {q : Nat × Byte} (h : q ∈ insertCell m a u) : q = (a, u) ∨ q ∈ m := by
  induction m with
  | nil => simpa [insertCell] using h
  | cons p rest ih =>
    simp only [insertCell] at h
    split at h
    · simpa using h
    · split at h
      · rcases List.mem_cons.1 h with h | h
        · exact .inl h
        · exact .inr (List.mem_cons_of_mem _ h)
      · rcases List.mem_cons.1 h with h | h
        · exact .inr (by simp [h])
        · exact (ih h).imp_right (List.mem_cons_of_mem _)

theorem mem_removeCell {m : Memory} {a : Nat} {q : Nat × Byte} (h : q ∈ removeCell m a) : q ∈ m := by
  induction m with
  | nil => exact h
  | cons p rest ih =>
    simp only [removeCell] at h
    split at h
    · exact List.mem_cons_of_mem _ (ih h)
    · rcases List.mem_cons.1 h with h | h
      · simp [h]
      · exact List.mem_cons_of_mem _ (ih h)

theorem insertCell_sorted {m : Memory} (a : Nat) (u : Byte) (h : m.Pairwise (fun p q => p.1 < q.1)) :
    (insertCell m a u).Pairwise (fun p q => p.1 < q.1) := by
  induction m with
  | nil => simp [insertCell]
  | cons p rest ih =>
    obtain ⟨hp, hr⟩ := List.pairwise_cons.1 h
    simp only [insertCell]
    split
    · refine List.pairwise_cons.2 ⟨fun q hq => ?_, h⟩
      rcases List.mem_cons.1 hq with rfl | hq
      · assumption
      · have := hp q hq
        show a < q.1
        omega
    · split
      · next e => exact List.pairwise_cons.2 ⟨fun q hq => by have := hp q hq; show a < q.1; omega, hr⟩
      · refine List.pairwise_cons.2 ⟨fun q hq => ?_, ih hr⟩
        rcases mem_insertCell hq with rfl | hq
        · show p.1 < a
          omega
        · exact hp q hq

theorem removeCell_sorted {m : Memory} (a : Nat) (h : m.Pairwise (fun p q => p.1 < q.1)) :
    (removeCell m a).Pairwise (fun p q => p.1 < q.1) := by
  induction m with
  | nil => simp [removeCell]
  | cons p rest ih =>
    obtain ⟨hp, hr⟩ := List.pairwise_cons.1 h
    simp only [removeCell]
    split
    · exact ih hr
    · exact List.pairwise_cons.2 ⟨fun q hq => hp q (mem_removeCell hq), ih hr⟩

/-- A write keeps the canonical form. -/
theorem write_wf {m : Memory} (a : Nat) (u : Byte) (h : m.wf) : (m.write a u).wf := by
  unfold Memory.write
  split
  · next ha =>
    split
    · exact ⟨removeCell_sorted a h.1, fun q hq => h.2 q (mem_removeCell hq)⟩
    · next hu =>
      refine ⟨insertCell_sorted a u h.1, fun q hq => ?_⟩
      rcases mem_insertCell hq with rfl | hq
      · exact ⟨ha, hu⟩
      · exact h.2 q hq
  · exact h

/-- The memory of a machine just reset is canonical. -/
theorem reset_mem_wf : State.reset.mem.wf := by
  simp [State.reset, Memory.wf]

/-- Copying a ROM keeps the canonical form. -/
theorem copyBytes_wf (bs : List Byte) : ∀ (a : Nat) {m : Memory}, m.wf → (copyBytes a bs m).wf := by
  induction bs with
  | nil => exact fun _ _ h => h
  | cons b bs ih => exact fun a m h => ih (a + 1) (write_wf a b h)

/-- What copying bytes does: byte `i` goes to `a + i`, every other address keeps its byte (R162). -/
theorem read_copyBytes (bs : List Byte) : ∀ (a : Nat) (m : Memory) (b : Nat), a + bs.length ≤ 4096 →
    (copyBytes a bs m).read b = if a ≤ b ∧ b < a + bs.length then bs.getD (b - a) 0 else m.read b := by
  induction bs with
  | nil =>
    intro a m b _
    simp only [copyBytes, List.length_nil, Nat.add_zero]
    rw [if_neg (by omega)]
  | cons u us ih =>
    intro a m b h
    simp only [List.length_cons] at h
    simp only [copyBytes, ih (a + 1) (m.write a u) b (by omega), List.length_cons]
    by_cases h1 : a + 1 ≤ b ∧ b < a + 1 + us.length
    · rw [if_pos h1, if_pos (by omega), show b - a = (b - (a + 1)) + 1 by omega, List.getD_cons_succ]
    · rw [if_neg h1, read_write]
      by_cases h2 : b = a
      · subst h2
        simp [show b < 4096 by omega]
      · rw [if_neg (by tauto), if_neg (by omega)]

end Sys2Proof.Laws
end

