-- ==== Sys2Proof/Laws/State.lean ====
section
/-!
SUPPORT. One lemma per field per named update of the state, true by definition, so that no later proof unfolds an update; and
the accessors `reg`, `byteAt`, `pixel`, `keyDown`, `ea` across the updates that do not touch them.
-/

namespace Sys2Proof.Laws

open Sys2Proof.Machine

/-! ## `setReg` -/

@[simp] theorem setReg_v (s : State) (x : Nibble) (u : Byte) : (s.setReg x u).v = s.v.set x.val u := rfl
@[simp] theorem setReg_idx (s : State) (x : Nibble) (u : Byte) : (s.setReg x u).idx = s.idx := rfl
@[simp] theorem setReg_pc (s : State) (x : Nibble) (u : Byte) : (s.setReg x u).pc = s.pc := rfl
@[simp] theorem setReg_stack (s : State) (x : Nibble) (u : Byte) : (s.setReg x u).stack = s.stack := rfl
@[simp] theorem setReg_sp (s : State) (x : Nibble) (u : Byte) : (s.setReg x u).sp = s.sp := rfl
@[simp] theorem setReg_dt (s : State) (x : Nibble) (u : Byte) : (s.setReg x u).dt = s.dt := rfl
@[simp] theorem setReg_st (s : State) (x : Nibble) (u : Byte) : (s.setReg x u).st = s.st := rfl
@[simp] theorem setReg_fb (s : State) (x : Nibble) (u : Byte) : (s.setReg x u).fb = s.fb := rfl
@[simp] theorem setReg_dirty (s : State) (x : Nibble) (u : Byte) : (s.setReg x u).dirty = s.dirty := rfl
@[simp] theorem setReg_key (s : State) (x : Nibble) (u : Byte) : (s.setReg x u).key = s.key := rfl
@[simp] theorem setReg_run (s : State) (x : Nibble) (u : Byte) : (s.setReg x u).run = s.run := rfl
@[simp] theorem setReg_wait (s : State) (x : Nibble) (u : Byte) : (s.setReg x u).wait = s.wait := rfl
@[simp] theorem setReg_wreg (s : State) (x : Nibble) (u : Byte) : (s.setReg x u).wreg = s.wreg := rfl
@[simp] theorem setReg_err (s : State) (x : Nibble) (u : Byte) : (s.setReg x u).err = s.err := rfl
@[simp] theorem setReg_trunc (s : State) (x : Nibble) (u : Byte) : (s.setReg x u).trunc = s.trunc := rfl
@[simp] theorem setReg_mem (s : State) (x : Nibble) (u : Byte) : (s.setReg x u).mem = s.mem := rfl
@[simp] theorem setReg_pending (s : State) (x : Nibble) (u : Byte) : (s.setReg x u).pending = s.pending := rfl
@[simp] theorem setReg_draws (s : State) (x : Nibble) (u : Byte) : (s.setReg x u).draws = s.draws := rfl
@[simp] theorem setReg_outputs (s : State) (x : Nibble) (u : Byte) : (s.setReg x u).outputs = s.outputs := rfl
@[simp] theorem setReg_byteAt (s : State) (x : Nibble) (u : Byte) (b : Nat) : (s.setReg x u).byteAt b = s.byteAt b := rfl
@[simp] theorem setReg_pixel (s : State) (x : Nibble) (u : Byte) (r c : Nat) : (s.setReg x u).pixel r c = s.pixel r c := rfl
@[simp] theorem setReg_keyDown (s : State) (x : Nibble) (u : Byte) (k : Nibble) : (s.setReg x u).keyDown k = s.keyDown k := rfl
@[simp] theorem setReg_ea (s : State) (x : Nibble) (u : Byte) (k : Nat) : (s.setReg x u).ea k = s.ea k := rfl

/-! ## `setVF` -/

@[simp] theorem setVF_v (s : State) (u : Byte) : (s.setVF u).v = s.v.set 15 u := rfl
@[simp] theorem setVF_idx (s : State) (u : Byte) : (s.setVF u).idx = s.idx := rfl
@[simp] theorem setVF_pc (s : State) (u : Byte) : (s.setVF u).pc = s.pc := rfl
@[simp] theorem setVF_stack (s : State) (u : Byte) : (s.setVF u).stack = s.stack := rfl
@[simp] theorem setVF_sp (s : State) (u : Byte) : (s.setVF u).sp = s.sp := rfl
@[simp] theorem setVF_dt (s : State) (u : Byte) : (s.setVF u).dt = s.dt := rfl
@[simp] theorem setVF_st (s : State) (u : Byte) : (s.setVF u).st = s.st := rfl
@[simp] theorem setVF_fb (s : State) (u : Byte) : (s.setVF u).fb = s.fb := rfl
@[simp] theorem setVF_dirty (s : State) (u : Byte) : (s.setVF u).dirty = s.dirty := rfl
@[simp] theorem setVF_key (s : State) (u : Byte) : (s.setVF u).key = s.key := rfl
@[simp] theorem setVF_run (s : State) (u : Byte) : (s.setVF u).run = s.run := rfl
@[simp] theorem setVF_wait (s : State) (u : Byte) : (s.setVF u).wait = s.wait := rfl
@[simp] theorem setVF_wreg (s : State) (u : Byte) : (s.setVF u).wreg = s.wreg := rfl
@[simp] theorem setVF_err (s : State) (u : Byte) : (s.setVF u).err = s.err := rfl
@[simp] theorem setVF_trunc (s : State) (u : Byte) : (s.setVF u).trunc = s.trunc := rfl
@[simp] theorem setVF_mem (s : State) (u : Byte) : (s.setVF u).mem = s.mem := rfl
@[simp] theorem setVF_pending (s : State) (u : Byte) : (s.setVF u).pending = s.pending := rfl
@[simp] theorem setVF_draws (s : State) (u : Byte) : (s.setVF u).draws = s.draws := rfl
@[simp] theorem setVF_outputs (s : State) (u : Byte) : (s.setVF u).outputs = s.outputs := rfl
@[simp] theorem setVF_byteAt (s : State) (u : Byte) (b : Nat) : (s.setVF u).byteAt b = s.byteAt b := rfl
@[simp] theorem setVF_pixel (s : State) (u : Byte) (r c : Nat) : (s.setVF u).pixel r c = s.pixel r c := rfl
@[simp] theorem setVF_keyDown (s : State) (u : Byte) (k : Nibble) : (s.setVF u).keyDown k = s.keyDown k := rfl
@[simp] theorem setVF_ea (s : State) (u : Byte) (k : Nat) : (s.setVF u).ea k = s.ea k := rfl

/-! ## `setPc` -/

@[simp] theorem setPc_v (s : State) (p : Word) : (s.setPc p).v = s.v := rfl
@[simp] theorem setPc_idx (s : State) (p : Word) : (s.setPc p).idx = s.idx := rfl
@[simp] theorem setPc_pc (s : State) (p : Word) : (s.setPc p).pc = p := rfl
@[simp] theorem setPc_stack (s : State) (p : Word) : (s.setPc p).stack = s.stack := rfl
@[simp] theorem setPc_sp (s : State) (p : Word) : (s.setPc p).sp = s.sp := rfl
@[simp] theorem setPc_dt (s : State) (p : Word) : (s.setPc p).dt = s.dt := rfl
@[simp] theorem setPc_st (s : State) (p : Word) : (s.setPc p).st = s.st := rfl
@[simp] theorem setPc_fb (s : State) (p : Word) : (s.setPc p).fb = s.fb := rfl
@[simp] theorem setPc_dirty (s : State) (p : Word) : (s.setPc p).dirty = s.dirty := rfl
@[simp] theorem setPc_key (s : State) (p : Word) : (s.setPc p).key = s.key := rfl
@[simp] theorem setPc_run (s : State) (p : Word) : (s.setPc p).run = s.run := rfl
@[simp] theorem setPc_wait (s : State) (p : Word) : (s.setPc p).wait = s.wait := rfl
@[simp] theorem setPc_wreg (s : State) (p : Word) : (s.setPc p).wreg = s.wreg := rfl
@[simp] theorem setPc_err (s : State) (p : Word) : (s.setPc p).err = s.err := rfl
@[simp] theorem setPc_trunc (s : State) (p : Word) : (s.setPc p).trunc = s.trunc := rfl
@[simp] theorem setPc_mem (s : State) (p : Word) : (s.setPc p).mem = s.mem := rfl
@[simp] theorem setPc_pending (s : State) (p : Word) : (s.setPc p).pending = s.pending := rfl
@[simp] theorem setPc_draws (s : State) (p : Word) : (s.setPc p).draws = s.draws := rfl
@[simp] theorem setPc_outputs (s : State) (p : Word) : (s.setPc p).outputs = s.outputs := rfl
@[simp] theorem setPc_reg (s : State) (p : Word) (y : Nibble) : (s.setPc p).reg y = s.reg y := rfl
@[simp] theorem setPc_byteAt (s : State) (p : Word) (b : Nat) : (s.setPc p).byteAt b = s.byteAt b := rfl
@[simp] theorem setPc_pixel (s : State) (p : Word) (r c : Nat) : (s.setPc p).pixel r c = s.pixel r c := rfl
@[simp] theorem setPc_keyDown (s : State) (p : Word) (k : Nibble) : (s.setPc p).keyDown k = s.keyDown k := rfl
@[simp] theorem setPc_ea (s : State) (p : Word) (k : Nat) : (s.setPc p).ea k = s.ea k := rfl

/-! ## `advance` -/

@[simp] theorem advance_v (s : State) : (s.advance).v = s.v := rfl
@[simp] theorem advance_idx (s : State) : (s.advance).idx = s.idx := rfl
@[simp] theorem advance_pc (s : State) : (s.advance).pc = s.pc + 2 := rfl
@[simp] theorem advance_stack (s : State) : (s.advance).stack = s.stack := rfl
@[simp] theorem advance_sp (s : State) : (s.advance).sp = s.sp := rfl
@[simp] theorem advance_dt (s : State) : (s.advance).dt = s.dt := rfl
@[simp] theorem advance_st (s : State) : (s.advance).st = s.st := rfl
@[simp] theorem advance_fb (s : State) : (s.advance).fb = s.fb := rfl
@[simp] theorem advance_dirty (s : State) : (s.advance).dirty = s.dirty := rfl
@[simp] theorem advance_key (s : State) : (s.advance).key = s.key := rfl
@[simp] theorem advance_run (s : State) : (s.advance).run = s.run := rfl
@[simp] theorem advance_wait (s : State) : (s.advance).wait = s.wait := rfl
@[simp] theorem advance_wreg (s : State) : (s.advance).wreg = s.wreg := rfl
@[simp] theorem advance_err (s : State) : (s.advance).err = s.err := rfl
@[simp] theorem advance_trunc (s : State) : (s.advance).trunc = s.trunc := rfl
@[simp] theorem advance_mem (s : State) : (s.advance).mem = s.mem := rfl
@[simp] theorem advance_pending (s : State) : (s.advance).pending = s.pending := rfl
@[simp] theorem advance_draws (s : State) : (s.advance).draws = s.draws := rfl
@[simp] theorem advance_outputs (s : State) : (s.advance).outputs = s.outputs := rfl
@[simp] theorem advance_reg (s : State) (y : Nibble) : (s.advance).reg y = s.reg y := rfl
@[simp] theorem advance_byteAt (s : State) (b : Nat) : (s.advance).byteAt b = s.byteAt b := rfl
@[simp] theorem advance_pixel (s : State) (r c : Nat) : (s.advance).pixel r c = s.pixel r c := rfl
@[simp] theorem advance_keyDown (s : State) (k : Nibble) : (s.advance).keyDown k = s.keyDown k := rfl
@[simp] theorem advance_ea (s : State) (k : Nat) : (s.advance).ea k = s.ea k := rfl

/-! ## `skipIf` -/

@[simp] theorem skipIf_v (s : State) (c : Bool) : (s.skipIf c).v = s.v := rfl
@[simp] theorem skipIf_idx (s : State) (c : Bool) : (s.skipIf c).idx = s.idx := rfl
@[simp] theorem skipIf_pc (s : State) (c : Bool) : (s.skipIf c).pc = if c then s.pc + 4 else s.pc + 2 := rfl
@[simp] theorem skipIf_stack (s : State) (c : Bool) : (s.skipIf c).stack = s.stack := rfl
@[simp] theorem skipIf_sp (s : State) (c : Bool) : (s.skipIf c).sp = s.sp := rfl
@[simp] theorem skipIf_dt (s : State) (c : Bool) : (s.skipIf c).dt = s.dt := rfl
@[simp] theorem skipIf_st (s : State) (c : Bool) : (s.skipIf c).st = s.st := rfl
@[simp] theorem skipIf_fb (s : State) (c : Bool) : (s.skipIf c).fb = s.fb := rfl
@[simp] theorem skipIf_dirty (s : State) (c : Bool) : (s.skipIf c).dirty = s.dirty := rfl
@[simp] theorem skipIf_key (s : State) (c : Bool) : (s.skipIf c).key = s.key := rfl
@[simp] theorem skipIf_run (s : State) (c : Bool) : (s.skipIf c).run = s.run := rfl
@[simp] theorem skipIf_wait (s : State) (c : Bool) : (s.skipIf c).wait = s.wait := rfl
@[simp] theorem skipIf_wreg (s : State) (c : Bool) : (s.skipIf c).wreg = s.wreg := rfl
@[simp] theorem skipIf_err (s : State) (c : Bool) : (s.skipIf c).err = s.err := rfl
@[simp] theorem skipIf_trunc (s : State) (c : Bool) : (s.skipIf c).trunc = s.trunc := rfl
@[simp] theorem skipIf_mem (s : State) (c : Bool) : (s.skipIf c).mem = s.mem := rfl
@[simp] theorem skipIf_pending (s : State) (c : Bool) : (s.skipIf c).pending = s.pending := rfl
@[simp] theorem skipIf_draws (s : State) (c : Bool) : (s.skipIf c).draws = s.draws := rfl
@[simp] theorem skipIf_outputs (s : State) (c : Bool) : (s.skipIf c).outputs = s.outputs := rfl
@[simp] theorem skipIf_reg (s : State) (c : Bool) (y : Nibble) : (s.skipIf c).reg y = s.reg y := rfl
@[simp] theorem skipIf_byteAt (s : State) (c : Bool) (b : Nat) : (s.skipIf c).byteAt b = s.byteAt b := rfl
@[simp] theorem skipIf_pixel (s : State) (c : Bool) (r k : Nat) : (s.skipIf c).pixel r k = s.pixel r k := rfl
@[simp] theorem skipIf_keyDown (s : State) (c : Bool) (k : Nibble) : (s.skipIf c).keyDown k = s.keyDown k := rfl
@[simp] theorem skipIf_ea (s : State) (c : Bool) (k : Nat) : (s.skipIf c).ea k = s.ea k := rfl

/-! ## `setIdx` -/

@[simp] theorem setIdx_v (s : State) (u : Word) : (s.setIdx u).v = s.v := rfl
@[simp] theorem setIdx_idx (s : State) (u : Word) : (s.setIdx u).idx = u := rfl
@[simp] theorem setIdx_pc (s : State) (u : Word) : (s.setIdx u).pc = s.pc := rfl
@[simp] theorem setIdx_stack (s : State) (u : Word) : (s.setIdx u).stack = s.stack := rfl
@[simp] theorem setIdx_sp (s : State) (u : Word) : (s.setIdx u).sp = s.sp := rfl
@[simp] theorem setIdx_dt (s : State) (u : Word) : (s.setIdx u).dt = s.dt := rfl
@[simp] theorem setIdx_st (s : State) (u : Word) : (s.setIdx u).st = s.st := rfl
@[simp] theorem setIdx_fb (s : State) (u : Word) : (s.setIdx u).fb = s.fb := rfl
@[simp] theorem setIdx_dirty (s : State) (u : Word) : (s.setIdx u).dirty = s.dirty := rfl
@[simp] theorem setIdx_key (s : State) (u : Word) : (s.setIdx u).key = s.key := rfl
@[simp] theorem setIdx_run (s : State) (u : Word) : (s.setIdx u).run = s.run := rfl
@[simp] theorem setIdx_wait (s : State) (u : Word) : (s.setIdx u).wait = s.wait := rfl
@[simp] theorem setIdx_wreg (s : State) (u : Word) : (s.setIdx u).wreg = s.wreg := rfl
@[simp] theorem setIdx_err (s : State) (u : Word) : (s.setIdx u).err = s.err := rfl
@[simp] theorem setIdx_trunc (s : State) (u : Word) : (s.setIdx u).trunc = s.trunc := rfl
@[simp] theorem setIdx_mem (s : State) (u : Word) : (s.setIdx u).mem = s.mem := rfl
@[simp] theorem setIdx_pending (s : State) (u : Word) : (s.setIdx u).pending = s.pending := rfl
@[simp] theorem setIdx_draws (s : State) (u : Word) : (s.setIdx u).draws = s.draws := rfl
@[simp] theorem setIdx_outputs (s : State) (u : Word) : (s.setIdx u).outputs = s.outputs := rfl
@[simp] theorem setIdx_reg (s : State) (u : Word) (y : Nibble) : (s.setIdx u).reg y = s.reg y := rfl
@[simp] theorem setIdx_byteAt (s : State) (u : Word) (b : Nat) : (s.setIdx u).byteAt b = s.byteAt b := rfl
@[simp] theorem setIdx_pixel (s : State) (u : Word) (r c : Nat) : (s.setIdx u).pixel r c = s.pixel r c := rfl
@[simp] theorem setIdx_keyDown (s : State) (u : Word) (k : Nibble) : (s.setIdx u).keyDown k = s.keyDown k := rfl

/-! ## `setByte` -/

@[simp] theorem setByte_v (s : State) (a : Nat) (u : Byte) : (s.setByte a u).v = s.v := rfl
@[simp] theorem setByte_idx (s : State) (a : Nat) (u : Byte) : (s.setByte a u).idx = s.idx := rfl
@[simp] theorem setByte_pc (s : State) (a : Nat) (u : Byte) : (s.setByte a u).pc = s.pc := rfl
@[simp] theorem setByte_stack (s : State) (a : Nat) (u : Byte) : (s.setByte a u).stack = s.stack := rfl
@[simp] theorem setByte_sp (s : State) (a : Nat) (u : Byte) : (s.setByte a u).sp = s.sp := rfl
@[simp] theorem setByte_dt (s : State) (a : Nat) (u : Byte) : (s.setByte a u).dt = s.dt := rfl
@[simp] theorem setByte_st (s : State) (a : Nat) (u : Byte) : (s.setByte a u).st = s.st := rfl
@[simp] theorem setByte_fb (s : State) (a : Nat) (u : Byte) : (s.setByte a u).fb = s.fb := rfl
@[simp] theorem setByte_dirty (s : State) (a : Nat) (u : Byte) : (s.setByte a u).dirty = s.dirty := rfl
@[simp] theorem setByte_key (s : State) (a : Nat) (u : Byte) : (s.setByte a u).key = s.key := rfl
@[simp] theorem setByte_run (s : State) (a : Nat) (u : Byte) : (s.setByte a u).run = s.run := rfl
@[simp] theorem setByte_wait (s : State) (a : Nat) (u : Byte) : (s.setByte a u).wait = s.wait := rfl
@[simp] theorem setByte_wreg (s : State) (a : Nat) (u : Byte) : (s.setByte a u).wreg = s.wreg := rfl
@[simp] theorem setByte_err (s : State) (a : Nat) (u : Byte) : (s.setByte a u).err = s.err := rfl
@[simp] theorem setByte_trunc (s : State) (a : Nat) (u : Byte) : (s.setByte a u).trunc = s.trunc := rfl
@[simp] theorem setByte_mem (s : State) (a : Nat) (u : Byte) : (s.setByte a u).mem = s.mem.write a u := rfl
@[simp] theorem setByte_pending (s : State) (a : Nat) (u : Byte) : (s.setByte a u).pending = s.pending := rfl
@[simp] theorem setByte_draws (s : State) (a : Nat) (u : Byte) : (s.setByte a u).draws = s.draws := rfl
@[simp] theorem setByte_outputs (s : State) (a : Nat) (u : Byte) : (s.setByte a u).outputs = s.outputs := rfl
@[simp] theorem setByte_reg (s : State) (a : Nat) (u : Byte) (y : Nibble) : (s.setByte a u).reg y = s.reg y := rfl
@[simp] theorem setByte_pixel (s : State) (a : Nat) (u : Byte) (r c : Nat) : (s.setByte a u).pixel r c = s.pixel r c := rfl
@[simp] theorem setByte_keyDown (s : State) (a : Nat) (u : Byte) (k : Nibble) : (s.setByte a u).keyDown k = s.keyDown k := rfl
@[simp] theorem setByte_ea (s : State) (a : Nat) (u : Byte) (k : Nat) : (s.setByte a u).ea k = s.ea k := rfl

/-! ## `setErr` -/

@[simp] theorem setErr_v (s : State) (e : ErrorCode) : (s.setErr e).v = s.v := rfl
@[simp] theorem setErr_idx (s : State) (e : ErrorCode) : (s.setErr e).idx = s.idx := rfl
@[simp] theorem setErr_pc (s : State) (e : ErrorCode) : (s.setErr e).pc = s.pc := rfl
@[simp] theorem setErr_stack (s : State) (e : ErrorCode) : (s.setErr e).stack = s.stack := rfl
@[simp] theorem setErr_sp (s : State) (e : ErrorCode) : (s.setErr e).sp = s.sp := rfl
@[simp] theorem setErr_dt (s : State) (e : ErrorCode) : (s.setErr e).dt = s.dt := rfl
@[simp] theorem setErr_st (s : State) (e : ErrorCode) : (s.setErr e).st = s.st := rfl
@[simp] theorem setErr_fb (s : State) (e : ErrorCode) : (s.setErr e).fb = s.fb := rfl
@[simp] theorem setErr_dirty (s : State) (e : ErrorCode) : (s.setErr e).dirty = s.dirty := rfl
@[simp] theorem setErr_key (s : State) (e : ErrorCode) : (s.setErr e).key = s.key := rfl
@[simp] theorem setErr_run (s : State) (e : ErrorCode) : (s.setErr e).run = s.run := rfl
@[simp] theorem setErr_wait (s : State) (e : ErrorCode) : (s.setErr e).wait = s.wait := rfl
@[simp] theorem setErr_wreg (s : State) (e : ErrorCode) : (s.setErr e).wreg = s.wreg := rfl
@[simp] theorem setErr_err (s : State) (e : ErrorCode) : (s.setErr e).err = e := rfl
@[simp] theorem setErr_trunc (s : State) (e : ErrorCode) : (s.setErr e).trunc = s.trunc := rfl
@[simp] theorem setErr_mem (s : State) (e : ErrorCode) : (s.setErr e).mem = s.mem := rfl
@[simp] theorem setErr_pending (s : State) (e : ErrorCode) : (s.setErr e).pending = s.pending := rfl
@[simp] theorem setErr_draws (s : State) (e : ErrorCode) : (s.setErr e).draws = s.draws := rfl
@[simp] theorem setErr_outputs (s : State) (e : ErrorCode) : (s.setErr e).outputs = s.outputs := rfl
@[simp] theorem setErr_reg (s : State) (e : ErrorCode) (y : Nibble) : (s.setErr e).reg y = s.reg y := rfl
@[simp] theorem setErr_byteAt (s : State) (e : ErrorCode) (b : Nat) : (s.setErr e).byteAt b = s.byteAt b := rfl
@[simp] theorem setErr_pixel (s : State) (e : ErrorCode) (r c : Nat) : (s.setErr e).pixel r c = s.pixel r c := rfl
@[simp] theorem setErr_keyDown (s : State) (e : ErrorCode) (k : Nibble) : (s.setErr e).keyDown k = s.keyDown k := rfl
@[simp] theorem setErr_ea (s : State) (e : ErrorCode) (k : Nat) : (s.setErr e).ea k = s.ea k := rfl

/-! ## Reading what was written -/

/-- A register write is seen by a read of that register and no other (R10). -/
theorem setReg_reg (s : State) (x : Nibble) (u : Byte) (y : Nibble) :
    (s.setReg x u).reg y = if x = y then u else s.reg y := by
  simp only [State.reg, State.setReg, Vector.getElem_set, Fin.ext_iff]

@[simp] theorem setReg_reg_same (s : State) (x : Nibble) (u : Byte) : (s.setReg x u).reg x = u := by
  simp [setReg_reg]

theorem setReg_reg_other (s : State) {x y : Nibble} (u : Byte) (h : x ≠ y) : (s.setReg x u).reg y = s.reg y := by
  simp [setReg_reg, h]

/-- The flag's write is a register write (R11). -/
theorem setVF_reg (s : State) (u : Byte) (y : Nibble) : (s.setVF u).reg y = if (15 : Nibble) = y then u else s.reg y :=
  setReg_reg s 15 u y

end Sys2Proof.Laws
end

