-- ==== Sys2Proof/Laws/Ops.lean ====
section
/-!
SUPPORT. For each shared operation, once, everything it can do.
-/

namespace Sys2Proof.Laws

open Sys2Proof.Machine

/-- Raising answers a next state that differs in `ERR` only (R140). -/
theorem raise_eq_next {e : ErrorCode} {s t : State} (h : raise e s = .next t) : t = s.setErr e := by
  simpa [raise] using h.symm

/-- The range check either raises `AddressError` or goes on (R35). -/
theorem checked_eq_next {top : Nat} {s t : State} {k : Result} (h : checked top s k = .next t) :
    (4095 < top ∧ t = s.setErr .addressError) ∨ (top ≤ 4095 ∧ k = .next t) := by
  unfold checked at h
  split at h
  · exact .inl ⟨‹_›, raise_eq_next h⟩
  · exact .inr ⟨by omega, h⟩

@[simp] theorem checked_of_le {top : Nat} (s : State) (k : Result) (h : top ≤ 4095) : checked top s k = k := by
  simp [checked, show ¬ top > 4095 by omega]

@[simp] theorem checked_of_gt {top : Nat} (s : State) (k : Result) (h : 4095 < top) :
    checked top s k = .next (s.setErr .addressError) := by
  simp [checked, raise, h]

/-- A key operand either goes on with the key's number or raises `KeyIndexError` (R121(c)). -/
theorem withKey_eq_next {x : Nibble} {s t : State} {k : Nibble → Result} (h : withKey x s k = .next t) :
    (15 < (s.reg x).toNat ∧ t = s.setErr .keyIndexError) ∨
      ∃ n : Nibble, n.val = (s.reg x).toNat ∧ k n = .next t := by
  unfold withKey at h
  split at h
  · exact .inr ⟨_, rfl, h⟩
  · exact .inl ⟨by omega, raise_eq_next h⟩

/-- Storing a run changes memory only (R99). -/
theorem storeRun_eq (base : Nat) (k : Nat) (s : State) : storeRun base k s = { s with mem := (storeRun base k s).mem } := by
  induction k with
  | zero => rfl
  | succ k ih =>
    simp only [storeRun, State.setByte]
    rw [ih]

theorem regNumber_val {k : Nat} (h : k < 16) : (regNumber k).val = k := by
  simp [regNumber, Fin.ofNat, Nat.mod_eq_of_lt h]

theorem storeRun_reg (base k : Nat) (s : State) (x : Nibble) : (storeRun base k s).reg x = s.reg x := by
  rw [storeRun_eq]; rfl

/-- What storing a run puts in memory: `V[j]` at `base + j`, nothing elsewhere (R99). -/
theorem storeRun_byteAt (base : Nat) (s : State) (k : Nat) (hk : k ≤ 16) (hb : base + k ≤ 4096) (a : Nat) :
    (storeRun base k s).byteAt a = if base ≤ a ∧ a < base + k then s.reg (regNumber (a - base)) else s.byteAt a := by
  induction k with
  | zero => rw [if_neg (by omega)]; rfl
  | succ k ih =>
    show ((storeRun base k s).mem.write (base + k) ((storeRun base k s).reg (regNumber k))).read a = _
    rw [read_write, storeRun_reg]
    by_cases h : a = base + k
    · subst h
      rw [if_pos (by omega), if_pos (by omega), Nat.add_sub_cancel_left]
    · rw [if_neg (by tauto)]
      have := ih (by omega) (by omega)
      simp only [State.byteAt] at this ⊢
      rw [this]
      by_cases h2 : base ≤ a ∧ a < base + k
      · rw [if_pos h2, if_pos (by omega)]
      · rw [if_neg h2, if_neg (by omega)]

theorem storeRun_wf (base k : Nat) {s : State} (h : s.mem.wf) : (storeRun base k s).mem.wf := by
  induction k with
  | zero => exact h
  | succ k ih => exact write_wf _ _ ih

/-- Loading a run changes registers only (R100). -/
theorem loadRun_eq (base : Nat) (k : Nat) (s : State) : loadRun base k s = { s with v := (loadRun base k s).v } := by
  induction k with
  | zero => rfl
  | succ k ih =>
    simp only [loadRun, State.setReg]
    rw [ih]

theorem loadRun_byteAt (base k : Nat) (s : State) (a : Nat) : (loadRun base k s).byteAt a = s.byteAt a := by
  rw [loadRun_eq]; rfl

/-- What loading a run puts in the registers: the byte at `base + j` in `V[j]`, nothing above (R100). -/
theorem loadRun_reg (base : Nat) (s : State) (k : Nat) (hk : k ≤ 16) (x : Nibble) :
    (loadRun base k s).reg x = if x.val < k then s.byteAt (base + x.val) else s.reg x := by
  induction k with
  | zero => simp [loadRun]
  | succ k ih =>
    show ((loadRun base k s).setReg (regNumber k) ((loadRun base k s).byteAt (base + k))).reg x = _
    have hv := regNumber_val (k := k) (by omega)
    rw [setReg_reg, loadRun_byteAt, ih (by omega)]
    by_cases h : regNumber k = x
    · have hx : x.val = k := by rw [← h, hv]
      rw [if_pos h, if_pos (by omega), hx]
    · have hx : x.val ≠ k := fun e => h (Fin.ext (hv.trans e.symm))
      rw [if_neg h]
      by_cases h2 : x.val < k
      · rw [if_pos h2, if_pos (by omega)]
      · rw [if_neg h2, if_neg (by omega)]

/-- Performing a pending command is all a step does when one is pending (R7). -/
theorem step_pending {s : State} {c : Command} {rest : List Command} (h : s.pending = c :: rest) :
    step s = perform c { s with pending := rest } := by
  simp [step, h]

theorem step_idle {s : State} (h : s.pending = []) : step s = cycle s := by
  simp [step, h]

/-- Everything a `Cycle` can do: nothing, raise at the fetch, run the decoded instruction, or report (R60 to R64). -/
theorem cycle_cases {s t : State} (h : cycle s = .next t) :
    (s.gated = true ∧ t = s) ∨
    (s.gated = false ∧ 4094 < s.pc.toNat ∧ t = s.setErr .fetchAddressError) ∨
    (∃ i, s.gated = false ∧ s.pc.toNat ≤ 4094 ∧ decodeWord s.fetchWord = .ok i ∧ exec i s = .next t) ∨
    (∃ e, s.gated = false ∧ s.pc.toNat ≤ 4094 ∧ decodeWord s.fetchWord = .error e ∧ t = unrecognised s.fetchWord s) := by
  unfold cycle at h
  by_cases hg : s.gated = true
  · rw [if_pos hg] at h
    exact .inl ⟨hg, by simpa using h.symm⟩
  · have hg' : s.gated = false := by simpa using hg
    rw [if_neg hg] at h
    split at h
    · exact .inr (.inl ⟨hg', ‹_›, raise_eq_next h⟩)
    · split at h
      · exact .inr (.inr (.inl ⟨_, hg', by omega, ‹_›, h⟩))
      · exact .inr (.inr (.inr ⟨_, hg', by omega, ‹_›, by simpa using h.symm⟩))

/-- The engine is not gated exactly when it is loaded, not stopped and not waiting (R60). -/
theorem gated_eq_false {s : State} : s.gated = false ↔ s.run = true ∧ s.err = .none ∧ s.wait = false := by
  unfold State.gated
  cases s.run <;> cases s.wait <;> cases s.err <;> decide

end Sys2Proof.Laws
end

