-- ==== Sys2Proof/Laws/Frames.lean ====
section
/-!
SUPPORT. Frames of the shared operations: which parts each may change, and how frames compose.
-/

namespace Sys2Proof.Laws

open Sys2Proof.Machine

theorem Part.same_refl (p : Part) (s : State) : p.Same s s := by
  cases p <;> simp [Part.Same]

theorem Part.same_trans {p : Part} {s t u : State} (h1 : p.Same s t) (h2 : p.Same t u) : p.Same s u := by
  cases p <;> simp_all [Part.Same]

theorem sameBut_refl (ps : List Part) (s : State) : SameBut ps s s := fun p _ => Part.same_refl p s

theorem sameBut_trans {ps : List Part} {s t u : State} (h1 : SameBut ps s t) (h2 : SameBut ps t u) : SameBut ps s u :=
  fun p hp => Part.same_trans (h1 p hp) (h2 p hp)

theorem sameBut_mono {ps qs : List Part} {s t : State} (h : SameBut ps s t) (hs : ∀ p ∈ ps, p ∈ qs) : SameBut qs s t :=
  fun p hp => h p fun hm => hp (hs p hm)

/-- Two updates one after the other change at most what each may. -/
theorem sameBut_append {ps qs : List Part} {s t u : State} (h1 : SameBut ps s t) (h2 : SameBut qs t u) :
    SameBut (ps ++ qs) s u :=
  sameBut_trans (sameBut_mono h1 fun _ h => List.mem_append_left _ h) (sameBut_mono h2 fun _ h => List.mem_append_right _ h)

theorem setReg_sameBut (s : State) (x : Nibble) (u : Byte) : SameBut [.v] s (s.setReg x u) := by
  intro p hp; cases p <;> simp_all [Part.Same]

theorem setVF_sameBut (s : State) (u : Byte) : SameBut [.v] s (s.setVF u) := by
  intro p hp; cases p <;> simp_all [Part.Same]

theorem setPc_sameBut (s : State) (q : Word) : SameBut [.pc] s (s.setPc q) := by
  intro p hp; cases p <;> simp_all [Part.Same]

theorem advance_sameBut (s : State) : SameBut [.pc] s s.advance := by
  intro p hp; cases p <;> simp_all [Part.Same]

theorem skipIf_sameBut (s : State) (c : Bool) : SameBut [.pc] s (s.skipIf c) := by
  intro p hp; cases p <;> simp_all [Part.Same]

theorem setIdx_sameBut (s : State) (u : Word) : SameBut [.idx] s (s.setIdx u) := by
  intro p hp; cases p <;> simp_all [Part.Same]

theorem setByte_sameBut (s : State) (a : Nat) (u : Byte) : SameBut [.mem] s (s.setByte a u) := by
  intro p hp; cases p <;> simp_all [Part.Same]

theorem setErr_sameBut (s : State) (e : ErrorCode) : SameBut [.err] s (s.setErr e) := by
  intro p hp; cases p <;> simp_all [Part.Same]

theorem storeRun_sameBut (base k : Nat) (s : State) : SameBut [.mem] s (storeRun base k s) := by
  induction k with
  | zero => exact sameBut_refl _ _
  | succ k ih => exact sameBut_trans ih (setByte_sameBut _ _ _)

theorem loadRun_sameBut (base k : Nat) (s : State) : SameBut [.v] s (loadRun base k s) := by
  induction k with
  | zero => exact sameBut_refl _ _
  | succ k ih => exact sameBut_trans ih (setReg_sameBut _ _ _)

end Sys2Proof.Laws
end

