-- ==== Sys2Proof/Laws/PerInstr.lean ====
section
/-!
SUPPORT. The family `EncodesItsRow`: the word an instruction encodes to is selected by that instruction's row of the opcode map
(spec/30_encoding.md R51). One lemma per constructor.
-/

namespace Sys2Proof.Laws.EncodesItsRow

-- one proof after another: many proof threads at once ask for more memory than the check allows
set_option Elab.async false

/-- The row of the opcode map that stands for `i` selects `encode i`. -/
def Statement (i : Instr) : Prop := ∃ r ∈ opcodeMap, r.number = rowNumber i ∧ r.selects (encode i) = true

/-! ## What the masks keep of each format (R48) -/

theorem nibble_all (a : BitVec 4) : a &&& 0xF = a := by
  revert a; decide

theorem formatNNN_op (op : Nibble) (nnn : Addr) : formatNNN op nnn &&& 0xF000 = formatNNN op 0 := by
  have e : (0xF000 : Word) = (0xF : BitVec 4) ++ (0 : BitVec 12) := by decide
  rw [e, formatNNN, BitVec.and_append, nibble_all]
  simp [formatNNN]

theorem formatXKK_op (op x : Nibble) (kk : Byte) : formatXKK op x kk &&& 0xF000 = formatXKK op 0 0 := by
  have e : (0xF000 : Word) = ((0xF : BitVec 4) ++ (0 : BitVec 4)) ++ (0 : BitVec 8) := by decide
  rw [e, formatXKK, BitVec.and_append, BitVec.and_append, nibble_all]
  simp [formatXKK]

theorem formatXKK_sub (op x : Nibble) (kk : Byte) : formatXKK op x kk &&& 0xF0FF = formatXKK op 0 kk := by
  have e : (0xF0FF : Word) = ((0xF : BitVec 4) ++ (0 : BitVec 4)) ++ (0xFF : BitVec 8) := by decide
  rw [e, formatXKK, BitVec.and_append, BitVec.and_append, nibble_all, show kk &&& 0xFF = kk from BitVec.and_allOnes]
  simp [formatXKK]

theorem formatXYN_op (op x y n : Nibble) : formatXYN op x y n &&& 0xF000 = formatXYN op 0 0 0 := by
  have e : (0xF000 : Word) = ((0xF : BitVec 4) ++ (0 : BitVec 4)) ++ ((0 : BitVec 4) ++ (0 : BitVec 4)) := by decide
  rw [e, formatXYN, BitVec.and_append, BitVec.and_append, BitVec.and_append, nibble_all]
  simp [formatXYN]

theorem formatXYN_sub (op x y n : Nibble) : formatXYN op x y n &&& 0xF00F = formatXYN op 0 0 n := by
  have e : (0xF00F : Word) = ((0xF : BitVec 4) ++ (0 : BitVec 4)) ++ ((0 : BitVec 4) ++ (0xF : BitVec 4)) := by decide
  rw [e, formatXYN, BitVec.and_append, BitVec.and_append, BitVec.and_append, nibble_all, nibble_all]
  simp [formatXYN]

/-! ## One lemma per instruction -/

theorem cls : Statement (.cls) :=
  ⟨⟨1, 0x00E0, 0xFFFF⟩, by decide, rfl, by decide⟩

theorem ret : Statement (.ret) :=
  ⟨⟨2, 0x00EE, 0xFFFF⟩, by decide, rfl, by decide⟩

theorem jpNnn (nnn : Addr) : Statement (.jpNnn nnn) :=
  ⟨⟨3, 0x1000, 0xF000⟩, by decide, rfl, by
    rw [OpcodeRow.selects, encode, formatNNN_op]; decide⟩

theorem callNnn (nnn : Addr) : Statement (.callNnn nnn) :=
  ⟨⟨4, 0x2000, 0xF000⟩, by decide, rfl, by
    rw [OpcodeRow.selects, encode, formatNNN_op]; decide⟩

theorem seVxKk (x : Nibble) (kk : Byte) : Statement (.seVxKk x kk) :=
  ⟨⟨5, 0x3000, 0xF000⟩, by decide, rfl, by
    rw [OpcodeRow.selects, encode, formatXKK_op]; decide⟩

theorem sneVxKk (x : Nibble) (kk : Byte) : Statement (.sneVxKk x kk) :=
  ⟨⟨6, 0x4000, 0xF000⟩, by decide, rfl, by
    rw [OpcodeRow.selects, encode, formatXKK_op]; decide⟩

theorem seVxVy (x y : Nibble) : Statement (.seVxVy x y) :=
  ⟨⟨7, 0x5000, 0xF00F⟩, by decide, rfl, by
    rw [OpcodeRow.selects, encode, formatXYN_sub]; decide⟩

theorem ldVxKk (x : Nibble) (kk : Byte) : Statement (.ldVxKk x kk) :=
  ⟨⟨8, 0x6000, 0xF000⟩, by decide, rfl, by
    rw [OpcodeRow.selects, encode, formatXKK_op]; decide⟩

theorem addVxKk (x : Nibble) (kk : Byte) : Statement (.addVxKk x kk) :=
  ⟨⟨9, 0x7000, 0xF000⟩, by decide, rfl, by
    rw [OpcodeRow.selects, encode, formatXKK_op]; decide⟩

theorem ldVxVy (x y : Nibble) : Statement (.ldVxVy x y) :=
  ⟨⟨10, 0x8000, 0xF00F⟩, by decide, rfl, by
    rw [OpcodeRow.selects, encode, formatXYN_sub]; decide⟩

theorem orVxVy (x y : Nibble) : Statement (.orVxVy x y) :=
  ⟨⟨11, 0x8001, 0xF00F⟩, by decide, rfl, by
    rw [OpcodeRow.selects, encode, formatXYN_sub]; decide⟩

theorem andVxVy (x y : Nibble) : Statement (.andVxVy x y) :=
  ⟨⟨12, 0x8002, 0xF00F⟩, by decide, rfl, by
    rw [OpcodeRow.selects, encode, formatXYN_sub]; decide⟩

theorem xorVxVy (x y : Nibble) : Statement (.xorVxVy x y) :=
  ⟨⟨13, 0x8003, 0xF00F⟩, by decide, rfl, by
    rw [OpcodeRow.selects, encode, formatXYN_sub]; decide⟩

theorem addVxVy (x y : Nibble) : Statement (.addVxVy x y) :=
  ⟨⟨14, 0x8004, 0xF00F⟩, by decide, rfl, by
    rw [OpcodeRow.selects, encode, formatXYN_sub]; decide⟩

theorem subVxVy (x y : Nibble) : Statement (.subVxVy x y) :=
  ⟨⟨15, 0x8005, 0xF00F⟩, by decide, rfl, by
    rw [OpcodeRow.selects, encode, formatXYN_sub]; decide⟩

theorem shrVxVy (x y : Nibble) : Statement (.shrVxVy x y) :=
  ⟨⟨16, 0x8006, 0xF00F⟩, by decide, rfl, by
    rw [OpcodeRow.selects, encode, formatXYN_sub]; decide⟩

theorem subnVxVy (x y : Nibble) : Statement (.subnVxVy x y) :=
  ⟨⟨17, 0x8007, 0xF00F⟩, by decide, rfl, by
    rw [OpcodeRow.selects, encode, formatXYN_sub]; decide⟩

theorem shlVxVy (x y : Nibble) : Statement (.shlVxVy x y) :=
  ⟨⟨18, 0x800E, 0xF00F⟩, by decide, rfl, by
    rw [OpcodeRow.selects, encode, formatXYN_sub]; decide⟩

theorem sneVxVy (x y : Nibble) : Statement (.sneVxVy x y) :=
  ⟨⟨19, 0x9000, 0xF00F⟩, by decide, rfl, by
    rw [OpcodeRow.selects, encode, formatXYN_sub]; decide⟩

theorem ldINnn (nnn : Addr) : Statement (.ldINnn nnn) :=
  ⟨⟨20, 0xA000, 0xF000⟩, by decide, rfl, by
    rw [OpcodeRow.selects, encode, formatNNN_op]; decide⟩

theorem jpV0Nnn (nnn : Addr) : Statement (.jpV0Nnn nnn) :=
  ⟨⟨21, 0xB000, 0xF000⟩, by decide, rfl, by
    rw [OpcodeRow.selects, encode, formatNNN_op]; decide⟩

theorem rndVxKk (x : Nibble) (kk : Byte) : Statement (.rndVxKk x kk) :=
  ⟨⟨22, 0xC000, 0xF000⟩, by decide, rfl, by
    rw [OpcodeRow.selects, encode, formatXKK_op]; decide⟩

theorem drwVxVyN (x y n : Nibble) : Statement (.drwVxVyN x y n) :=
  ⟨⟨23, 0xD000, 0xF000⟩, by decide, rfl, by
    rw [OpcodeRow.selects, encode, formatXYN_op]; decide⟩

theorem skpVx (x : Nibble) : Statement (.skpVx x) :=
  ⟨⟨24, 0xE09E, 0xF0FF⟩, by decide, rfl, by
    rw [OpcodeRow.selects, encode, formatXKK_sub]; decide⟩

theorem sknpVx (x : Nibble) : Statement (.sknpVx x) :=
  ⟨⟨25, 0xE0A1, 0xF0FF⟩, by decide, rfl, by
    rw [OpcodeRow.selects, encode, formatXKK_sub]; decide⟩

theorem ldVxDt (x : Nibble) : Statement (.ldVxDt x) :=
  ⟨⟨26, 0xF007, 0xF0FF⟩, by decide, rfl, by
    rw [OpcodeRow.selects, encode, formatXKK_sub]; decide⟩

theorem ldVxK (x : Nibble) : Statement (.ldVxK x) :=
  ⟨⟨27, 0xF00A, 0xF0FF⟩, by decide, rfl, by
    rw [OpcodeRow.selects, encode, formatXKK_sub]; decide⟩

theorem ldDtVx (x : Nibble) : Statement (.ldDtVx x) :=
  ⟨⟨28, 0xF015, 0xF0FF⟩, by decide, rfl, by
    rw [OpcodeRow.selects, encode, formatXKK_sub]; decide⟩

theorem ldStVx (x : Nibble) : Statement (.ldStVx x) :=
  ⟨⟨29, 0xF018, 0xF0FF⟩, by decide, rfl, by
    rw [OpcodeRow.selects, encode, formatXKK_sub]; decide⟩

theorem addIVx (x : Nibble) : Statement (.addIVx x) :=
  ⟨⟨30, 0xF01E, 0xF0FF⟩, by decide, rfl, by
    rw [OpcodeRow.selects, encode, formatXKK_sub]; decide⟩

theorem ldFVx (x : Nibble) : Statement (.ldFVx x) :=
  ⟨⟨31, 0xF029, 0xF0FF⟩, by decide, rfl, by
    rw [OpcodeRow.selects, encode, formatXKK_sub]; decide⟩

theorem ldBVx (x : Nibble) : Statement (.ldBVx x) :=
  ⟨⟨32, 0xF033, 0xF0FF⟩, by decide, rfl, by
    rw [OpcodeRow.selects, encode, formatXKK_sub]; decide⟩

theorem ldMemVx (x : Nibble) : Statement (.ldMemVx x) :=
  ⟨⟨33, 0xF055, 0xF0FF⟩, by decide, rfl, by
    rw [OpcodeRow.selects, encode, formatXKK_sub]; decide⟩

theorem ldVxMem (x : Nibble) : Statement (.ldVxMem x) :=
  ⟨⟨34, 0xF065, 0xF0FF⟩, by decide, rfl, by
    rw [OpcodeRow.selects, encode, formatXKK_sub]; decide⟩

end Sys2Proof.Laws.EncodesItsRow
end

