-- ==== Sys2Proof/Tests/Slice0.lean ====
section
/-!
SUPPORT. The model's own tests. Words are written from the pattern column of spec/30_encoding.md R51; start and end values are
those of spec/95_test_vectors.md, whose entry each test names. The witnesses at the end meet the hypotheses of the statements.
-/

namespace Sys2Proof.Tests

-- one proof after another: many proof threads at once ask for more memory than the check allows
set_option Elab.async false

open Sys2Proof.Machine

/-! ## Small states -/

/-- A loaded engine, `pc = 0x200`, no frame owed. -/
def engine : State := { State.reset with run := true, dirty := false }

/-- With `V[x]` as given. -/
def withReg (x : Nibble) (u : Byte) (s : State) : State := s.setReg x u

/-- With `V[0]` upwards as given. -/
def withRegs (us : List Byte) (s : State) : State := { s with v := Vector.ofFn fun k => us.getD k.val 0 }

/-- With the pixel in row `r`, column `c` on. -/
def withPixel (r c : Nat) (s : State) : State := { s with fb := Grid.set s.fb r c true }

/-- With key `k` down. -/
def withKeyDown (k : Nibble) (s : State) : State := { s with key := s.key.set k.val true }

/-- With the sprite of T44 at 0x300. -/
def withSprite (s : State) : State := (({ s with idx := 0x300 }.setByte 0x300 0xFF).setByte 0x301 0x81)

/-- One step on `word` placed where the step fetches; `f` reads the result. -/
def after {α : Type} (word : Nat) (s : State) (f : State → α) : Option α :=
  match step (s.withFetchWord 16 word) with
  | .next t => some (f t)
  | .fault _ => none
  | .refused _ => none

/-- One step performing a command; `f` reads the result. -/
def afterCommand {α : Type} (c : Command) (s : State) (f : State → α) : Option α :=
  match step { s with pending := [c] } with
  | .next t => some (f t)
  | .fault _ => none
  | .refused _ => none

/-- The columns of row `r` that are on. -/
def rowOn (r : Nat) (t : State) : List Nat := (List.range 64).filter fun c => t.pixel r c

/-! ## Well-formedness: each check refuses an ill-formed term -/

theorem test_illFormed_or : (Instr.wellFormed (.orVxVy 15 1)) = false := by decide
theorem test_illFormed_and : (Instr.wellFormed (.andVxVy 1 15)) = false := by decide
theorem test_illFormed_xor : (Instr.wellFormed (.xorVxVy 15 15)) = false := by decide
theorem test_illFormed_add : (Instr.wellFormed (.addVxVy 15 2)) = false := by decide
theorem test_illFormed_sub : (Instr.wellFormed (.subVxVy 2 15)) = false := by decide
theorem test_illFormed_shr : (Instr.wellFormed (.shrVxVy 15 0)) = false := by decide
theorem test_illFormed_subn : (Instr.wellFormed (.subnVxVy 0 15)) = false := by decide
theorem test_illFormed_shl : (Instr.wellFormed (.shlVxVy 15 0)) = false := by decide
theorem test_illFormed_draw : (Instr.wellFormed (.drwVxVyN 3 15 1)) = false := by decide
theorem test_wellFormed_load_vF : (Instr.wellFormed (.ldVxKk 15 7)) = true := by decide
theorem test_wellFormed_add : (Instr.wellFormed (.addVxVy 0 14)) = true := by decide

/-! ## Decoding: a word of every row, written from its pattern -/

theorem test_decode_cls : decodeTableWord 16 0x00E0 = some (.cls) := by decide
theorem test_decode_ret : decodeTableWord 16 0x00EE = some (.ret) := by decide
theorem test_decode_jpNnn : decodeTableWord 16 0x1ABC = some (.jpNnn 0xABC) := by decide
theorem test_decode_callNnn : decodeTableWord 16 0x2FFF = some (.callNnn 0xFFF) := by decide
theorem test_decode_seVxKk : decodeTableWord 16 0x3FC1 = some (.seVxKk 15 0xC1) := by decide
theorem test_decode_sneVxKk : decodeTableWord 16 0x4311 = some (.sneVxKk 3 0x11) := by decide
theorem test_decode_seVxVy : decodeTableWord 16 0x5120 = some (.seVxVy 1 2) := by decide
theorem test_decode_ldVxKk : decodeTableWord 16 0x6A2F = some (.ldVxKk 10 0x2F) := by decide
theorem test_decode_addVxKk : decodeTableWord 16 0x7AFF = some (.addVxKk 10 0xFF) := by decide
theorem test_decode_ldVxVy : decodeTableWord 16 0x8120 = some (.ldVxVy 1 2) := by decide
theorem test_decode_orVxVy : decodeTableWord 16 0x8AB1 = some (.orVxVy 10 11) := by decide
theorem test_decode_andVxVy : decodeTableWord 16 0x8122 = some (.andVxVy 1 2) := by decide
theorem test_decode_xorVxVy : decodeTableWord 16 0x8123 = some (.xorVxVy 1 2) := by decide
theorem test_decode_addVxVy : decodeTableWord 16 0x8F14 = some (.addVxVy 15 1) := by decide
theorem test_decode_subVxVy : decodeTableWord 16 0x8125 = some (.subVxVy 1 2) := by decide
theorem test_decode_shrVxVy : decodeTableWord 16 0x8126 = some (.shrVxVy 1 2) := by decide
theorem test_decode_subnVxVy : decodeTableWord 16 0x8127 = some (.subnVxVy 1 2) := by decide
theorem test_decode_shlVxVy : decodeTableWord 16 0x812E = some (.shlVxVy 1 2) := by decide
theorem test_decode_sneVxVy : decodeTableWord 16 0x9120 = some (.sneVxVy 1 2) := by decide
theorem test_decode_ldINnn : decodeTableWord 16 0xA300 = some (.ldINnn 0x300) := by decide
theorem test_decode_jpV0Nnn : decodeTableWord 16 0xB2FF = some (.jpV0Nnn 0x2FF) := by decide
theorem test_decode_rndVxKk : decodeTableWord 16 0xC1F0 = some (.rndVxKk 1 0xF0) := by decide
theorem test_decode_drwVxVyN : decodeTableWord 16 0xD125 = some (.drwVxVyN 1 2 5) := by decide
theorem test_decode_skpVx : decodeTableWord 16 0xE79E = some (.skpVx 7) := by decide
theorem test_decode_sknpVx : decodeTableWord 16 0xEFA1 = some (.sknpVx 15) := by decide
theorem test_decode_ldVxDt : decodeTableWord 16 0xF307 = some (.ldVxDt 3) := by decide
theorem test_decode_ldVxK : decodeTableWord 16 0xF30A = some (.ldVxK 3) := by decide
theorem test_decode_ldDtVx : decodeTableWord 16 0xF015 = some (.ldDtVx 0) := by decide
theorem test_decode_ldStVx : decodeTableWord 16 0xF218 = some (.ldStVx 2) := by decide
theorem test_decode_addIVx : decodeTableWord 16 0xF11E = some (.addIVx 1) := by decide
theorem test_decode_ldFVx : decodeTableWord 16 0xFA29 = some (.ldFVx 10) := by decide
theorem test_decode_ldBVx : decodeTableWord 16 0xF033 = some (.ldBVx 0) := by decide
theorem test_decode_ldMemVx : decodeTableWord 16 0xF355 = some (.ldMemVx 3) := by decide
theorem test_decode_ldVxMem : decodeTableWord 16 0xF265 = some (.ldVxMem 2) := by decide

theorem test_decode_group0 : decodeTableWord 16 0x00E1 = none ∧ decodeTableWord 16 0x0123 = none := by decide
theorem test_decode_group8 : decodeTableWord 16 0x8008 = none ∧ decodeTableWord 16 0x800F = none := by decide
theorem test_decode_groupF : decodeTableWord 16 0xF075 = none ∧ decodeTableWord 16 0xF002 = none := by decide
theorem test_decode_truncated : decode [0x12] = .error .truncated := by decide
theorem test_decode_bytes : decode [0x12, 0x04, 0x60] = .ok (.jpNnn 0x204, [0x60]) := by decide

/-! ## One step of each instruction -/

/-- T44-17 -/
theorem test_cls : after 0x00E0 (withPixel 0 0 (withPixel 31 63 engine)) (fun t => (t.pixel 0 0, t.pixel 31 63, t.dirty, t.pc)) = some (false, false, true, 0x202) := by decide +kernel
/-- T41-3 -/
theorem test_ret : after 0x00EE ({ engine with pc := 0x20C, sp := 1, stack := engine.stack.set 0 0x204 }) (fun t => (t.pc, t.sp, t.stack[0])) = some (0x206, 0, 0x204) := by decide +kernel
/-- S10, T41-1 -/
theorem test_ret_underflow : after 0x00EE (engine) (fun t => (t.pc, t.sp, t.err)) = some (0x200, 0, .stackUnderflow) := by decide +kernel
/-- T41-6 -/
theorem test_jp : after 0x1FFF (engine) (fun t => t.pc) = some 0xFFF := by decide +kernel
/-- T41-9 -/
theorem test_call : after 0x2300 ({ engine with sp := 15 }) (fun t => (t.pc, t.sp, t.stack[15])) = some (0x300, 16, 0x200) := by decide +kernel
/-- T41-8 -/
theorem test_call_overflow : after 0x2300 ({ engine with sp := 16 }) (fun t => (t.pc, t.sp, t.err)) = some (0x200, 16, .stackOverflow) := by decide +kernel
/-- T41-15 -/
theorem test_seVxKk : after 0x3FFF (withReg 15 0xFF (engine)) (fun t => t.pc) = some 0x204 := by decide +kernel
/-- T41-16 -/
theorem test_sneVxKk : after 0x4311 (withReg 3 0x10 (engine)) (fun t => t.pc) = some 0x204 := by decide +kernel
/-- T41-19 -/
theorem test_seVxVy : after 0x5120 (withReg 1 7 (withReg 2 8 (engine))) (fun t => t.pc) = some 0x202 := by decide +kernel
/-- T41-21 -/
theorem test_sneVxVy : after 0x9120 (withReg 1 7 (withReg 2 8 (engine))) (fun t => t.pc) = some 0x204 := by decide +kernel
/-- T41-12 -/
theorem test_jpV0 : after 0xB300 (withReg 0 4 (withReg 3 99 (engine))) (fun t => t.pc) = some 0x304 := by decide +kernel
/-- T41-10 -/
theorem test_jpV0_high : after 0xBFFF (withReg 0 0xFF (engine)) (fun t => t.pc) = some 0x10FE := by decide +kernel
/-- T42-2 -/
theorem test_ldVxKk : after 0x6F07 (engine) (fun t => (t.reg 15, t.pc)) = some (7, 0x202) := by decide +kernel
/-- S2 -/
theorem test_addVxKk : after 0x730A (withReg 3 250 (withReg 15 1 (engine))) (fun t => (t.reg 3, t.reg 15)) = some (4, 1) := by decide +kernel
/-- T42-5 -/
theorem test_ldVxVy : after 0x8120 (withReg 2 0x55 (engine)) (fun t => (t.reg 1, t.reg 2)) = some (0x55, 0x55) := by decide +kernel
/-- T42-32 -/
theorem test_or : after 0x81F1 (withReg 1 0xF0 (withReg 15 0x0F (engine))) (fun t => (t.reg 1, t.reg 15)) = some (0xFF, 0) := by decide +kernel
/-- S1 -/
theorem test_and : after 0x8122 (withReg 1 0xF3 (withReg 2 0x3F (withReg 15 7 (engine)))) (fun t => (t.reg 1, t.reg 15)) = some (0x33, 0) := by decide +kernel
/-- S1 -/
theorem test_xor : after 0x8123 (withReg 1 0xFF (withReg 2 0x0F (withReg 15 0xFF (engine)))) (fun t => (t.reg 1, t.reg 15)) = some (0xF0, 0) := by decide +kernel
/-- S3 -/
theorem test_add : after 0x8124 (withReg 1 200 (withReg 2 100 (engine))) (fun t => (t.reg 1, t.reg 2, t.reg 15)) = some (44, 100, 1) := by decide +kernel
/-- T42-33 -/
theorem test_add_into_vF : after 0x8F14 (withReg 15 200 (withReg 1 100 (engine))) (fun t => (t.reg 15, t.reg 1)) = some (1, 100) := by decide +kernel
/-- T42-11 -/
theorem test_sub : after 0x8125 (withReg 1 5 (withReg 2 5 (engine))) (fun t => (t.reg 1, t.reg 15)) = some (0, 0) := by decide +kernel
/-- T42-36 -/
theorem test_sub_from_vF : after 0x8F15 (withReg 15 5 (withReg 1 3 (engine))) (fun t => (t.reg 15, t.reg 1)) = some (254, 3) := by decide +kernel
/-- S4 -/
theorem test_shr : after 0x8126 (withReg 1 0xAA (withReg 2 3 (engine))) (fun t => (t.reg 1, t.reg 2, t.reg 15)) = some (1, 3, 1) := by decide +kernel
/-- T42-42 -/
theorem test_shr_vF : after 0x81F6 (withReg 1 0x55 (withReg 15 7 (engine))) (fun t => (t.reg 1, t.reg 15)) = some (3, 1) := by decide +kernel
/-- T42-14 -/
theorem test_subn : after 0x8127 (withReg 1 10 (withReg 2 3 (engine))) (fun t => (t.reg 1, t.reg 15)) = some (249, 0) := by decide +kernel
/-- T42-40 -/
theorem test_subn_vF : after 0x81F7 (withReg 1 1 (withReg 15 3 (engine))) (fun t => (t.reg 1, t.reg 15)) = some (0, 1) := by decide +kernel
/-- T42-18 -/
theorem test_shl : after 0x812E (withReg 1 0xAA (withReg 2 0x81 (engine))) (fun t => (t.reg 1, t.reg 2, t.reg 15)) = some (2, 0x81, 1) := by decide +kernel
/-- T42-43 -/
theorem test_shl_vF : after 0x8F1E (withReg 1 0x80 (engine)) (fun t => t.reg 15) = some 2 := by decide +kernel
/-- T42-22: the register's value for the draw 0xA7; the draw itself is free. -/
theorem test_rnd : ((maskedDraw 0xA7 1 0xF0 engine).reg 1, (maskedDraw 0xA7 1 0xF0 engine).pc) = (0xA0, 0x202) := by decide +kernel
/-- T43-1 -/
theorem test_ldI : after 0xAFFF (engine) (fun t => (t.idx, t.pc)) = some (0x0FFF, 0x202) := by decide +kernel
/-- T43-3 -/
theorem test_addI : after 0xF11E (withReg 1 2 ({ engine with idx := 0xFFFF })) (fun t => (t.idx, t.reg 15)) = some (1, 0) := by decide +kernel
/-- T43-7 -/
theorem test_ldF : after 0xF029 (withReg 0 0xFF (engine)) (fun t => t.idx) = some 0x04FB := by decide +kernel
/-- T43-8 -/
theorem test_ldB : after 0xF033 (withReg 0 255 ({ engine with idx := 0xFFD })) (fun t => (t.byteAt 0xFFD, t.byteAt 0xFFE, t.byteAt 0xFFF, t.idx)) = some (2, 5, 5, 0xFFD) := by decide +kernel
/-- T43-9 -/
theorem test_ldB_beyond : after 0xF033 (withReg 0 255 ({ engine with idx := 0xFFE })) (fun t => (t.err, t.byteAt 0xFFE, t.pc)) = some (.addressError, 0, 0x200) := by decide +kernel
/-- S9 -/
theorem test_store : after 0xF355 (withRegs [1, 2, 3, 4, 9] { engine with idx := 0x300 }) (fun t => (t.byteAt 0x300, t.byteAt 0x303, t.byteAt 0x304, t.idx)) = some (1, 4, 0, 0x304) := by decide +kernel
/-- T43-16 -/
theorem test_store_beyond : after 0xF055 ({ engine with idx := 0xFFFF }) (fun t => (t.err, t.pc)) = some (.addressError, 0x200) := by decide +kernel
/-- T43-17 -/
theorem test_load : after 0xF065 (withReg 0 9 ({ engine with idx := 0xFFF }.setByte 0xFFF 0x77)) (fun t => (t.reg 0, t.idx)) = some (0x77, 0x1000) := by decide +kernel
/-- T43-18 -/
theorem test_load_beyond : after 0xF165 (withReg 0 9 (withReg 1 8 ({ engine with idx := 0xFFF }))) (fun t => (t.err, t.reg 0, t.reg 1)) = some (.addressError, 9, 8) := by decide +kernel
/-- T44-2 -/
theorem test_draw_wraps_origin : after 0xD012 (withReg 0 70 (withReg 1 33 (withSprite engine))) (fun t => (rowOn 1 t, rowOn 2 t, t.reg 15, t.dirty)) = some ([6, 7, 8, 9, 10, 11, 12, 13], [6, 13], 0, true) := by decide +kernel
/-- T44-5 -/
theorem test_draw_collides : after 0xD012 (withPixel 0 0 (withSprite engine)) (fun t => (rowOn 0 t, rowOn 1 t, t.reg 15)) = some ([1, 2, 3, 4, 5, 6, 7], [0, 7], 1) := by decide +kernel
/-- T45-1 -/
theorem test_skp : after 0xE09E (withReg 0 0x0B (withKeyDown 11 engine)) (fun t => t.pc) = some 0x204 := by decide +kernel
/-- T45-6 -/
theorem test_skp_beyond : after 0xE09E (withReg 0 16 (engine)) (fun t => (t.err, t.pc)) = some (.keyIndexError, 0x200) := by decide +kernel
/-- T45-3 -/
theorem test_sknp : after 0xE0A1 (withReg 0 0x0B (withKeyDown 11 engine)) (fun t => t.pc) = some 0x202 := by decide +kernel
/-- T45-7 -/
theorem test_sknp_beyond : after 0xE0A1 (withReg 0 255 (engine)) (fun t => (t.err, t.pc)) = some (.keyIndexError, 0x200) := by decide +kernel
/-- T45-8 -/
theorem test_ldVxDt : after 0xF307 ({ engine with dt := 42 }) (fun t => (t.reg 3, t.dt, t.pc)) = some (42, 42, 0x202) := by decide +kernel
/-- T45-11 -/
theorem test_waitKey : after 0xFF0A (withKeyDown 5 engine) (fun t => (t.wait, t.wreg, t.pc)) = some (true, 15, 0x200) := by decide +kernel
/-- T45-9 -/
theorem test_ldDtVx : after 0xF015 (withReg 0 255 (engine)) (fun t => (t.dt, t.st)) = some (255, 0) := by decide +kernel
/-- T45-10 -/
theorem test_ldStVx : after 0xF218 (withReg 2 3 (engine)) (fun t => (t.st, t.dt)) = some (3, 0) := by decide +kernel
/-- T40-7 -/
theorem test_unrecognised : after 0x0123 (engine) (fun t => (t.pc, t.sp, t.outputs)) = some (0x202, 0, [.unrecognisedOpcode 0x200 0x0123]) := by decide +kernel

/-! ## The other commands -/

/-- T60-1, S8 -/
theorem test_tick : afterCommand .tick ({ engine with dt := 255, st := 0 }) (fun t => (t.dt, t.st)) = some (254, 0) := by decide +kernel
/-- T60-4 -/
theorem test_tick_after_error : afterCommand .tick ({ engine with err := .addressError, dt := 4 }) (fun t => t.dt) = some 3 := by decide +kernel
/-- S7 -/
theorem test_setKey_ends_wait : afterCommand (.setKey 11 true) ({ engine with wait := true }) (fun t => (t.reg 0, t.wait, t.pc, t.keyDown 11)) = some (11, false, 0x202, true) := by decide +kernel
/-- T45-12 -/
theorem test_setKey_held : afterCommand (.setKey 5 true) (withKeyDown 5 { engine with wait := true, wreg := 15 }) (fun t => (t.reg 15, t.wait, t.pc)) = some (0, true, 0x200) := by decide +kernel
/-- T60-10 -/
theorem test_render : afterCommand .render ({ engine with dirty := true }) (fun t => (t.outputs, t.dirty)) = some ([.frame Grid.blank], false) := by decide +kernel
/-- T70-1, T70-6 -/
theorem test_loadRom : afterCommand (.load [0x60, 0x05, 0x61]) ({ engine with err := .stackOverflow }) (fun t => (t.byteAt 0x200, t.byteAt 0x202, t.byteAt 0x203, t.run, t.err)) = some (0x60, 0x61, 0, true, .none) := by decide +kernel
/-- T70-5 -/
theorem test_reset : afterCommand .reset (withKeyDown 2 (withReg 10 5 { engine with dt := 5, wait := true, pc := 0x204 })) (fun t => ((t.reg 10, t.dt, t.wait), t.pc, t.run, t.dirty, t.keyDown 2)) = some ((0, 0, false), 0x200, false, true, true) := by decide +kernel

/-- T40-14 -/
theorem test_fetch_beyond : afterCommand .cycle { engine with pc := 4095 } (fun t => (t.err, t.pc)) = some (.fetchAddressError, 4095) := by
  decide +kernel

/-! ## Witnesses: for each statement with hypotheses, concrete values that meet all of them, at the boundaries of each clause -/

/-- The outcome is the next state `t`. -/
def isNext (r : Result) (t : State) : Bool :=
  match r with
  | .next u => decide (u = t)
  | .fault _ => false
  | .refused _ => false

theorem next_of_isNext {r : Result} {t : State} (h : isNext r t = true) : r = .next t := by
  unfold isNext at h
  split at h
  · rw [of_decide_eq_true h]
  · cases h
  · cases h

/-- A wait in progress: `F30A` at 0x200 has been executed, one entry is live. -/
def waiting : State :=
  { engine.withFetchWord 16 0xF30A with wait := true, wreg := 3, sp := 1, stack := engine.stack.set 0 0xFFE }

/-- An engine with one command pending. -/
def commanded (c : Command) (s : State) : State := { s with pending := [c] }

theorem test_witness_EncodeOfDecodeIsTheWord : decodeWord 0xD125 = .ok (.drwVxVyN 1 2 5) := by decide

theorem test_witness_DecoderFollowsTheOpcodeMap :
    ⟨23, 0xD000, 0xF000⟩ ∈ opcodeMap ∧ OpcodeRow.selects ⟨23, 0xD000, 0xF000⟩ 0xDFFF = true := by decide

theorem test_witness_UnrecognisedWordsAreThoseListed : decodeWord 0xE09F = .error (.unrecognised 0xE09F) := by decide

/-- `6000` at 4094, the last address a fetch may use (T40-13), first with nothing pending, then with a `Cycle` pending. -/
def lastFetch : State := { engine with pc := 4094 }.withFetchWord 16 0x6000

theorem test_witness_StepRunsTheDecodedInstruction :
    lastFetch.run = true ∧ lastFetch.err = .none ∧ lastFetch.wait = false ∧ lastFetch.pc.toNat = 4094 ∧
    decode [lastFetch.byteAt lastFetch.pc.toNat, lastFetch.byteAt (lastFetch.pc.toNat + 1)] = .ok (.ldVxKk 0 0, []) ∧
    lastFetch.pending = [] ∧ (commanded .cycle lastFetch).pending = .cycle :: [] := by decide +kernel

/-- P8: the last of the 1792 reports. -/
theorem test_witness_UnrecognisedWordIsAReportedNoOp :
    let s : State := { engine with pc := 4094 }
    s.run = true ∧ s.err = .none ∧ s.wait = false ∧ s.pc.toNat ≤ 4094 ∧ s.pending = [] ∧
    wordOfBytes (s.byteAt s.pc.toNat) (s.byteAt (s.pc.toNat + 1)) = 0 ∧ decodeWord 0 = .error (.unrecognised 0) := by
  decide +kernel

theorem test_witness_GatedCycleChangesNothing :
    State.reset.run = false ∧ ({ engine with err := .addressError } : State).err ≠ .none ∧ waiting.wait = true ∧
    State.reset.pending = [] ∧ (commanded .cycle waiting).pending = [.cycle] := by decide +kernel

theorem test_witness_FetchBeyondMemoryRaises :
    let s : State := { engine with pc := 4095 }
    s.run = true ∧ s.err = .none ∧ s.wait = false ∧ 4094 < s.pc.toNat ∧ s.pending = [] := by decide +kernel

theorem test_witness_CycleHasOneOfTheListedOutcomes :
    cycle State.reset = .next State.reset ∧ cycle { engine with pc := 4095 } = .next { engine with pc := 4095, err := .fetchAddressError } ∧
    cycle engine = .next (unrecognised 0 engine) ∧ ∃ t, cycle lastFetch = .next t ∧ t.pc = 4096 :=
  ⟨rfl, next_of_isNext (by decide +kernel), next_of_isNext (by decide +kernel),
   (lastFetch.setReg 0 0).advance, next_of_isNext (by decide +kernel), by decide +kernel⟩

/-- The invariant holds in a state with a wait on, memory listed and a live entry at the bound of R26(f). -/
theorem test_witness_EveryStepKeepsTheInvariant : StateInv waiting ∧ ∃ t, step waiting = .next t where
  left :=
    { memCanonical := by decide +kernel
      waitRuns := fun _ => by decide +kernel
      waitAtInstr := fun _ => by decide +kernel
      unloaded := fun h => absurd h (by decide +kernel)
      pcBound := by decide +kernel
      liveEntries := by decide +kernel }
  right := ⟨waiting, next_of_isNext (by decide +kernel)⟩

theorem test_witness_CanonicalMemoriesThatReadAlikeAreEqual :
    Memory.wf [(0x200, 0x12), (0xFFF, 1)] ∧ ∀ a : Nat, Memory.read [(0x200, 0x12), (0xFFF, 1)] a = Memory.read [(0x200, 0x12), (0xFFF, 1)] a :=
  ⟨by decide +kernel, fun _ => rfl⟩

/-- Every instruction of R130's table, at the first value that raises. -/
theorem test_witness_RaiseWritesOnlyTheErrorCode :
    raiseCode .ret engine = .stackUnderflow ∧ raiseCode (.callNnn 0x300) { engine with sp := 16 } = .stackOverflow ∧
    raiseCode (.drwVxVyN 0 1 1) { engine with idx := 0x1000 } = .addressError ∧
    raiseCode (.ldBVx 0) { engine with idx := 0xFFE } = .addressError ∧
    raiseCode (.ldMemVx 15) { engine with idx := 0xFF1 } = .addressError ∧
    raiseCode (.ldVxMem 1) { engine with idx := 0xFFF } = .addressError ∧
    raiseCode (.skpVx 0) (withReg 0 16 engine) = .keyIndexError ∧ raiseCode (.sknpVx 0) (withReg 0 255 engine) = .keyIndexError := by
  decide +kernel

/-- The same instructions, at the last value that does not raise. -/
theorem test_witness_InstructionsWriteOnlyTheirParts :
    raiseCode .ret { engine with sp := 1 } = .none ∧ raiseCode (.callNnn 0x300) { engine with sp := 15 } = .none ∧
    raiseCode (.drwVxVyN 0 1 1) { engine with idx := 0xFFF } = .none ∧
    raiseCode (.drwVxVyN 0 1 0) { engine with idx := 0xFFFF } = .none ∧
    raiseCode (.ldBVx 0) { engine with idx := 0xFFD } = .none ∧ raiseCode (.ldMemVx 15) { engine with idx := 0xFF0 } = .none ∧
    raiseCode (.ldVxMem 0) { engine with idx := 0xFFF } = .none ∧ raiseCode (.skpVx 0) (withReg 0 15 engine) = .none ∧
    raiseCode (.sknpVx 0) (withReg 0 15 engine) = .none := by decide +kernel

/-- An engine stopped by a fatal error, with the frame buffer not shown. -/
def stopped : State := { engine with err := .stackOverflow, dt := 4, dirty := true }

theorem test_witness_FatalErrorIsLeftOnlyByResetOrLoad :
    stopped.err ≠ .none ∧ stopped.wait = false ∧ (∃ t, step stopped = .next t) ∧
    (∃ t, step (commanded .tick stopped) = .next t ∧ t.err = .stackOverflow) ∧
    (∃ t, step (commanded .reset stopped) = .next t ∧ t.err = .none) ∧
    (∃ t, step (commanded (.load []) stopped) = .next t ∧ t.err = .none) :=
  ⟨by decide +kernel, by decide +kernel, ⟨_, rfl⟩, ⟨_, rfl, rfl⟩, ⟨_, rfl, rfl⟩, ⟨_, rfl, rfl⟩⟩

theorem test_witness_DirtyIsClearedOnlyByRender :
    ∃ t, step (commanded .render stopped) = .next t ∧ (commanded .render stopped).dirty = true ∧ t.dirty = false :=
  ⟨_, rfl, rfl, rfl⟩

theorem test_witness_KeyLatchIsWrittenOnlyBySetKey :
    ∃ t, step (commanded (.setKey 15 true) engine) = .next t ∧ t.keyDown 15 ≠ (commanded (.setKey 15 true) engine).keyDown 15 :=
  ⟨_, rfl, by decide +kernel⟩

/-- Each of the four changes happens: loading, resetting, beginning a wait, and its three ends. -/
theorem test_witness_RunAndWaitChangeOnlyByTheirCommands :
    (∃ t, step (commanded (.load []) State.reset) = .next t ∧ t.run = true) ∧
    (∃ t, step (commanded .reset engine) = .next t ∧ t.run = false) ∧
    (∃ t, step (engine.withFetchWord 16 0xF30A) = .next t ∧ t.wait = true) ∧
    (∃ t, step (commanded (.setKey 0 true) waiting) = .next t ∧ t.wait = false) ∧
    (∃ t, step (commanded .reset waiting) = .next t ∧ t.wait = false) ∧
    (∃ t, step (commanded (.load []) waiting) = .next t ∧ t.wait = false) :=
  ⟨⟨_, rfl, rfl⟩, ⟨_, rfl, rfl⟩,
   ⟨{ engine.withFetchWord 16 0xF30A with wait := true, wreg := 3 }, next_of_isNext (by decide +kernel), rfl⟩,
   ⟨completeWait 0 { waiting with key := waiting.key.set 0 true }, next_of_isNext (by decide +kernel), rfl⟩, ⟨_, rfl, rfl⟩, ⟨_, rfl, rfl⟩⟩

theorem test_witness_CallPushesItsOwnAddress :
    engine.sp.val = (0 : Fin 16).val ∧ ({ engine with sp := 15 } : State).sp.val = (15 : Fin 16).val := by decide +kernel

theorem test_witness_ReturnGoesPastTheMatchingCall :
    ({ engine with sp := 1 } : State).sp.val = (0 : Fin 16).val + 1 ∧ ({ engine with sp := 16 } : State).sp.val = (15 : Fin 16).val + 1 := by
  decide +kernel

theorem test_witness_StackBoundsRaise : ({ engine with sp := 16 } : State).sp.val = 16 ∧ engine.sp.val = 0 := by decide +kernel

/-- The deepest legal call; the callee here returns at once. -/
theorem test_witness_ReturnResumesAfterTheCall :
    let s : State := { engine with sp := 15 }
    let t : State := { engine with sp := 16, stack := engine.stack.set 15 0x200, pc := 0x300 }
    s.sp.val < 16 ∧ exec (.callNnn 0x300) s = .next t ∧ t.sp = t.sp ∧
    ∀ k : Fin 16, k.val < t.sp.val → t.stack[k.val] = t.stack[k.val] :=
  ⟨by decide +kernel, next_of_isNext (by decide +kernel), rfl, fun _ _ => rfl⟩

theorem test_witness_ImmediateSkipsCompareRegisterAndImmediate :
    ((withReg 15 0xFF engine).reg 15).toNat = (0xFF : Byte).toNat ∧ ((withReg 15 0xFE engine).reg 15).toNat ≠ (0xFF : Byte).toNat := by
  decide +kernel

theorem test_witness_RegisterSkipsCompareTwoRegisters :
    ((withReg 15 3 engine).reg 15).toNat = ((withReg 15 3 engine).reg 15).toNat ∧
    ((withReg 1 7 engine).reg 1).toNat ≠ ((withReg 1 7 engine).reg 2).toNat ∧ (1 : Nibble) ≠ 0 := by decide +kernel

theorem test_witness_LogicOperationsClearTheFlag : (14 : Nibble) ≠ 15 := by decide

/-- The two clauses of the carry meet at 255 and 256. -/
theorem test_witness_AddRegistersSetsTheCarry :
    (14 : Nibble) ≠ 15 ∧ 255 < ((withRegs [255, 1] engine).reg 0).toNat + ((withRegs [255, 1] engine).reg 1).toNat ∧
    ((withRegs [255, 0] engine).reg 0).toNat + ((withRegs [255, 0] engine).reg 1).toNat ≤ 255 := by decide +kernel

/-- The four aliasing cases. -/
theorem test_witness_SubtractByAliasingCase :
    ((14 : Nibble) ≠ 15 ∧ (0 : Nibble) ≠ 15) ∧ ((15 : Nibble) = 15 ∧ (14 : Nibble) ≠ 15) ∧ ((0 : Nibble) ≠ 15 ∧ (15 : Nibble) = 15) ∧
    ((15 : Nibble) = 15 ∧ (15 : Nibble) = 15) := by decide

theorem test_witness_ReverseSubtractByAliasingCase :
    ((0 : Nibble) ≠ 15 ∧ (14 : Nibble) ≠ 15) ∧ ((15 : Nibble) = 15 ∧ (0 : Nibble) ≠ 15) ∧ ((14 : Nibble) ≠ 15 ∧ (15 : Nibble) = 15) ∧
    ((15 : Nibble) = 15 ∧ (15 : Nibble) = 15) := by decide

theorem test_witness_ShiftRightByAliasingCase : (14 : Nibble) ≠ 15 ∧ (15 : Nibble) = 15 := by decide

theorem test_witness_ShiftLeftByAliasingCase : (0 : Nibble) ≠ 15 ∧ (15 : Nibble) = 15 := by decide

theorem test_witness_DecimalDigitsAreStored : ({ engine with idx := 0xFFD } : State).idx.toNat + 2 ≤ 4095 := by decide +kernel

theorem test_witness_RegistersAreStoredInOrder :
    ({ engine with idx := 0xFF0 } : State).idx.toNat + (15 : Nibble).val ≤ 4095 ∧
    ({ engine with idx := 0xFFF } : State).idx.toNat + (0 : Nibble).val ≤ 4095 := by decide +kernel

theorem test_witness_RegistersAreLoadedInOrder :
    ({ engine with idx := 0xFF0 } : State).idx.toNat + (15 : Nibble).val ≤ 4095 ∧ (14 : Nibble) ≤ 15 ∧ (14 : Nibble) < 15 := by
  decide +kernel

theorem test_witness_AccessBeyondMemoryRaises :
    4095 < ({ engine with idx := 0xFFE } : State).idx.toNat + 2 ∧ 4095 < ({ engine with idx := 0xFF1 } : State).idx.toNat + (15 : Nibble).val ∧
    4095 < ({ engine with idx := 0xFFFF } : State).idx.toNat + (0 : Nibble).val ∧
    (0 < (1 : Nibble).val ∧ 4095 < ({ engine with idx := 0x1000 } : State).idx.toNat + (1 : Nibble).val - 1) := by decide +kernel

/-- `F055` at 0xFFF (T43-14), then `I` put back and the register cleared. -/
theorem test_witness_LoadRestoresWhatStoreSaved :
    let s : State := withReg 0 9 { engine with idx := 0xFFF }
    let t : State := { s.setByte 0xFFF 9 with idx := 0x1000, pc := 0x202 }
    let u : State := withReg 0 0 { t with idx := 0xFFF }
    s.idx.toNat + (0 : Nibble).val ≤ 4095 ∧ exec (.ldMemVx 0) s = .next t ∧ u.idx = s.idx ∧ ∀ a : Nat, u.byteAt a = t.byteAt a :=
  ⟨by decide +kernel, next_of_isNext (by decide +kernel), by decide +kernel, fun _ => rfl⟩

theorem test_witness_FontPointerFindsTheGlyph :
    ((withReg 0 15 engine).reg 0).toNat ≤ 15 ∧ 4 < 5 ∧ ∀ a : Nat, a < 80 → (withReg 0 15 engine).byteAt a = State.reset.byteAt a :=
  ⟨by decide +kernel, by decide, fun _ _ => rfl⟩

/-- No row with `I` far out of memory; the longest sprite that fits; a covered pixel that is on, and one not covered (T44-1, T44-5). -/
theorem test_witness_DrawXorsTheSpriteOntoTheSurface :
    ((0 : Nibble).val = 0 ∨ ({ engine with idx := 0xFFFF } : State).idx.toNat + (0 : Nibble).val - 1 ≤ 4095) ∧
    ((15 : Nibble).val = 0 ∨ ({ engine with idx := 0xFF1 } : State).idx.toNat + (15 : Nibble).val - 1 ≤ 4095) ∧
    (Covers 0 1 2 (withPixel 0 0 (withSprite engine)) 0 0 ∧ (withPixel 0 0 (withSprite engine)).pixel 0 0 = true) ∧
    (∀ r c : Nat, ¬ Covers 0 1 0 engine r c) :=
  ⟨by decide, by decide +kernel, ⟨⟨0, 0, by decide, by decide, by decide +kernel, by decide +kernel, by decide +kernel⟩, by decide +kernel⟩,
   fun _ _ ⟨_, _, h, _⟩ => absurd h (Nat.not_lt_zero _)⟩

theorem test_witness_DrawingTwiceRestoresTheSurface :
    (0 : Nibble) ≠ 15 ∧ (1 : Nibble) ≠ 15 ∧ (withSprite engine).idx.toNat + (2 : Nibble).val - 1 ≤ 4095 ∧
    ∃ t, exec (.drwVxVyN 0 1 2) (withSprite engine) = .next t :=
  ⟨by decide, by decide, by decide +kernel, _, rfl⟩

theorem test_witness_KeySkipsReadTheLatch :
    ((withReg 0 15 (withKeyDown 15 engine)).reg 0).toNat = (15 : Nibble).val ∧ (withReg 0 15 (withKeyDown 15 engine)).keyDown 15 = true ∧
    ((withReg 0 0 engine).reg 0).toNat = (0 : Nibble).val ∧ (withReg 0 0 engine).keyDown 0 = false := by decide +kernel

theorem test_witness_KeyNumberAboveFifteenRaises : 15 < ((withReg 0 16 engine).reg 0).toNat := by decide +kernel

/-- R146's four cases. -/
theorem test_witness_SetKeyByCase :
    ((commanded (.setKey 15 true) waiting).pending = .setKey 15 true :: [] ∧ waiting.keyDown 15 = false ∧ waiting.wait = true) ∧
    (engine.keyDown 15 = false ∧ engine.wait = false) ∧ (withKeyDown 5 waiting).keyDown 5 = true ∧
    (commanded (.setKey 0 false) waiting).pending = .setKey 0 false :: [] := by decide +kernel

theorem test_witness_TickCountsBothTimersDown :
    (commanded .tick engine).pending = .tick :: [] ∧ engine.run = true ∧ State.reset.run = false := by decide +kernel

theorem test_witness_RenderOutputsADirtySurface :
    (commanded .render engine).pending = .render :: [] ∧ State.reset.dirty = true ∧ engine.dirty = false := by decide +kernel

theorem test_witness_ResetCommandRestoresAllButTheKeys : (commanded .reset waiting).pending = .reset :: [] := by decide +kernel

/-- The longest sequence that fits and the shortest that is cut, with the last byte copied and the first dropped (T70-2, T70-3). -/
theorem test_witness_LoadCopiesTheRomAndRuns :
    (commanded (.load (List.replicate 3585 1)) stopped).pending = .load (List.replicate 3585 1) :: [] ∧
    3583 < (List.replicate 3584 (1 : Byte)).length ∧ 3583 < 3584 ∧ 3584 < (List.replicate 3585 (1 : Byte)).length ∧
    (0x1FF < 0x200 ∨ 0x200 + min (List.replicate 3584 (1 : Byte)).length 3584 ≤ 0x1FF) := by
  refine ⟨rfl, ?_, by decide, ?_, .inl (by decide)⟩ <;> rw [List.length_replicate] <;> decide

end Sys2Proof.Tests
end

namespace Sys2Proof.Proofs

open Sys2Proof.Machine Sys2Proof.Laws

/-!
SUPPORT. Proofs of the statements about the state (spec/10_state.md): what each command and each instruction may write, and the
invariant of R26.
-/

/-! ## The eight forms that can raise (R130): the state each answers when its condition does not hold -/

/-- A condition with a real code holds exactly when the code is raised. -/
theorem codeIf_eq_none {c : Bool} {e : ErrorCode} (he : e ≠ .none) : codeIf c e = .none ↔ c = false := by
  cases c <;> simp [codeIf, he]

theorem execRet_of_pos {s : State} (h : 0 < s.sp.val) :
    execRet s = .next { s with
      sp := ⟨s.sp.val - 1, Nat.lt_of_le_of_lt (Nat.sub_le _ _) s.sp.isLt⟩
      pc := s.stack.getD (s.sp.val - 1) 0 + 2 } :=
  if_neg (by omega)

theorem execCallNnn_of_lt {s : State} (nnn : Addr) (h : s.sp.val < 16) :
    execCallNnn nnn s = .next { s with
      stack := s.stack.set s.sp.val s.pc h
      sp := ⟨s.sp.val + 1, Nat.succ_lt_succ h⟩
      pc := zextAddr nnn } :=
  dif_pos h

/-- What a completed `Dxyn` leaves: the drawn surface, `DIRTY` if anything was plotted, the collision in `VF` (R106). -/
def drawn (x y n : Nibble) (s : State) : State :=
  ({ s with fb := (drawSprite x y n s).fb, dirty := s.dirty || (drawSprite x y n s).plotted }.setVF
    (flag (drawSprite x y n s).hit)).advance

theorem execDrwVxVyN_of_le {s : State} {n : Nibble} (x y : Nibble) (h : n.val = 0 ∨ s.idx.toNat + n.val - 1 ≤ 4095) :
    execDrwVxVyN x y n s = .next (drawn x y n s) :=
  if_neg (by simp only [State.ea]; omega)

theorem execSkpVx_of_lt {x : Nibble} {s : State} (h : (s.reg x).toNat < 16) :
    execSkpVx x s = .next (s.skipIf (s.keyDown ⟨(s.reg x).toNat, h⟩)) :=
  dif_pos h

theorem execSknpVx_of_lt {x : Nibble} {s : State} (h : (s.reg x).toNat < 16) :
    execSknpVx x s = .next (s.skipIf (!s.keyDown ⟨(s.reg x).toNat, h⟩)) :=
  dif_pos h

/-! ## The conditions of R130, form by form -/

theorem raiseCode_ret {s : State} : raiseCode .ret s = .none ↔ 0 < s.sp.val := by
  simp [raiseCode, codeIf_eq_none, Nat.pos_iff_ne_zero]

theorem raiseCode_callNnn {s : State} {nnn : Addr} : raiseCode (.callNnn nnn) s = .none ↔ s.sp.val < 16 := by
  have := s.sp.isLt
  simp only [raiseCode, codeIf_eq_none (e := .stackOverflow) (by decide), beq_eq_false_iff_ne]
  omega

theorem raiseCode_drwVxVyN {s : State} {x y n : Nibble} :
    raiseCode (.drwVxVyN x y n) s = .none ↔ n.val = 0 ∨ s.idx.toNat + n.val - 1 ≤ 4095 := by
  simp only [raiseCode, codeIf_eq_none (e := .addressError) (by decide), Bool.and_eq_false_iff, decide_eq_false_iff_not]
  omega

theorem raiseCode_ldBVx {s : State} {x : Nibble} : raiseCode (.ldBVx x) s = .none ↔ s.ea 2 ≤ 4095 := by
  simp [raiseCode, codeIf_eq_none, State.ea]

theorem raiseCode_ldMemVx {s : State} {x : Nibble} : raiseCode (.ldMemVx x) s = .none ↔ s.ea x.val ≤ 4095 := by
  simp [raiseCode, codeIf_eq_none, State.ea]

theorem raiseCode_ldVxMem {s : State} {x : Nibble} : raiseCode (.ldVxMem x) s = .none ↔ s.ea x.val ≤ 4095 := by
  simp [raiseCode, codeIf_eq_none, State.ea]

theorem raiseCode_skpVx {s : State} {x : Nibble} : raiseCode (.skpVx x) s = .none ↔ (s.reg x).toNat < 16 := by
  simp only [raiseCode, codeIf_eq_none (e := .keyIndexError) (by decide), decide_eq_false_iff_not]
  omega

theorem raiseCode_sknpVx {s : State} {x : Nibble} : raiseCode (.sknpVx x) s = .none ↔ (s.reg x).toNat < 16 :=
  raiseCode_skpVx

/-! ## Raising -/

/-- Under a condition of R130, an instruction answers the old state with the code in `ERR` (R140). -/
theorem exec_of_raiseCode {i : Instr} {s : State} (h : raiseCode i s ≠ .none) :
    exec i s = .next (s.setErr (raiseCode i s)) := by
  cases i
  case ret =>
    have hsp : s.sp.val = 0 := by rw [Ne, raiseCode_ret] at h; omega
    simp [exec, execRet, raise, raiseCode, codeIf, hsp]
  case callNnn nnn =>
    have hsp : s.sp.val = 16 := by rw [Ne, raiseCode_callNnn] at h; omega
    simp [exec, execCallNnn, raise, raiseCode, codeIf, hsp]
  case drwVxVyN x y n =>
    have hn : 0 < n.val ∧ 4095 < s.idx.toNat + n.val - 1 := by rw [Ne, raiseCode_drwVxVyN] at h; omega
    have he : n.val > 0 ∧ s.ea (n.val - 1) > 4095 := by simp only [State.ea]; omega
    exact (if_pos he).trans (by simp [raise, raiseCode, codeIf, hn])
  case ldBVx x =>
    have ha : 4095 < s.ea 2 := by rw [Ne, raiseCode_ldBVx] at h; omega
    simp [exec, execLdBVx, ha, raiseCode, codeIf, show 4095 < s.idx.toNat + 2 from ha]
  case ldMemVx x =>
    have ha : 4095 < s.ea x.val := by rw [Ne, raiseCode_ldMemVx] at h; omega
    simp [exec, execLdMemVx, ha, raiseCode, codeIf, show 4095 < s.idx.toNat + x.val from ha]
  case ldVxMem x =>
    have ha : 4095 < s.ea x.val := by rw [Ne, raiseCode_ldVxMem] at h; omega
    simp [exec, execLdVxMem, ha, raiseCode, codeIf, show 4095 < s.idx.toNat + x.val from ha]
  case skpVx x =>
    have hx : ¬ (s.reg x).toNat < 16 := by rwa [Ne, raiseCode_skpVx] at h
    simp [exec, execSkpVx, withKey, hx, raise, raiseCode, codeIf, show 15 < (s.reg x).toNat by omega]
  case sknpVx x =>
    have hx : ¬ (s.reg x).toNat < 16 := by rwa [Ne, raiseCode_sknpVx] at h
    simp [exec, execSknpVx, withKey, hx, raise, raiseCode, codeIf, show 15 < (s.reg x).toNat by omega]
  all_goals exact absurd rfl h -- no other form has a condition

/-! ## Frames of the updates that instructions and commands are made of -/

/-! ### One field written -/

theorem setFb_sameBut (s : State) (g : Grid) : SameBut [.fb] s { s with fb := g } := by
  intro p hp; cases p <;> simp_all [Part.Same, State.reg, State.keyDown, State.byteAt]

theorem setDirty_sameBut (s : State) (b : Bool) : SameBut [.dirty] s { s with dirty := b } := by
  intro p hp; cases p <;> simp_all [Part.Same, State.reg, State.keyDown, State.byteAt, State.pixel]

theorem setStack_sameBut (s : State) (f : Vector Word 16) : SameBut [.stack] s { s with stack := f } := by
  intro p hp; cases p <;> simp_all [Part.Same, State.reg, State.keyDown, State.byteAt, State.pixel]

theorem setSp_sameBut (s : State) (n : Fin 17) : SameBut [.sp] s { s with sp := n } := by
  intro p hp; cases p <;> simp_all [Part.Same, State.reg, State.keyDown, State.byteAt, State.pixel]

theorem setDt_sameBut (s : State) (u : Byte) : SameBut [.dt] s { s with dt := u } := by
  intro p hp; cases p <;> simp_all [Part.Same, State.reg, State.keyDown, State.byteAt, State.pixel]

theorem setSt_sameBut (s : State) (u : Byte) : SameBut [.st] s { s with st := u } := by
  intro p hp; cases p <;> simp_all [Part.Same, State.reg, State.keyDown, State.byteAt, State.pixel]

theorem setLatch_sameBut (s : State) (f : Vector Bool 16) : SameBut [.key] s { s with key := f } := by
  intro p hp; cases p <;> simp_all [Part.Same, State.reg, State.byteAt, State.pixel]

theorem setWait_sameBut (s : State) (b : Bool) : SameBut [.wait] s { s with wait := b } := by
  intro p hp; cases p <;> simp_all [Part.Same, State.reg, State.keyDown, State.byteAt, State.pixel]

theorem setWreg_sameBut (s : State) (x : Nibble) : SameBut [.wreg] s { s with wreg := x } := by
  intro p hp; cases p <;> simp_all [Part.Same, State.reg, State.keyDown, State.byteAt, State.pixel]

theorem setDraws_sameBut (s : State) (n : Nat) : SameBut [.draws] s { s with draws := n } := by
  intro p hp; cases p <;> simp_all [Part.Same, State.reg, State.keyDown, State.byteAt, State.pixel]

theorem setOutputs_sameBut (s : State) (os : List Output) : SameBut [.outputs] s { s with outputs := os } := by
  intro p hp; cases p <;> simp_all [Part.Same, State.reg, State.keyDown, State.byteAt, State.pixel]

/-! ### Updates in a row -/

theorem setSp_setPc_sameBut (s : State) (n : Fin 17) (q : Word) : SameBut [.sp, .pc] s { s with sp := n, pc := q } :=
  sameBut_append (setSp_sameBut s n) (setPc_sameBut _ q)

theorem setFb_setDirty_sameBut (s : State) (g : Grid) (b : Bool) : SameBut [.fb, .dirty] s { s with fb := g, dirty := b } :=
  sameBut_append (setFb_sameBut s g) (setDirty_sameBut _ b)

theorem setReg_advance_sameBut (s : State) (x : Nibble) (u : Byte) : SameBut [.v, .pc] s (s.setReg x u).advance :=
  sameBut_append (setReg_sameBut s x u) (advance_sameBut _)

/-- Any two register writes, then `pc + 2` (R84 to R91). -/
theorem setReg_setReg_advance_sameBut (s : State) (x y : Nibble) (u w : Byte) :
    SameBut [.v, .pc] s ((s.setReg x u).setReg y w).advance :=
  sameBut_append (sameBut_trans (setReg_sameBut s x u) (setReg_sameBut _ y w)) (advance_sameBut _)

theorem copyFlagShift_sameBut (out shift : Byte → Byte) (x y : Nibble) (s : State) :
    SameBut [.v] s (copyFlagShift out shift x y s) :=
  sameBut_trans (sameBut_trans (setReg_sameBut s x _) (setVF_sameBut _ _)) (setReg_sameBut _ x _)

theorem setIdx_advance_sameBut (s : State) (u : Word) : SameBut [.idx, .pc] s (s.setIdx u).advance :=
  sameBut_append (setIdx_sameBut s u) (advance_sameBut _)

theorem setThreeBytes_advance_sameBut (s : State) (a b c : Nat) (u w z : Byte) :
    SameBut [.mem, .pc] s (((s.setByte a u).setByte b w).setByte c z).advance :=
  sameBut_append (sameBut_trans (sameBut_trans (setByte_sameBut s a u) (setByte_sameBut _ b w)) (setByte_sameBut _ c z))
    (advance_sameBut _)

/-! ## Where an instruction can leave `pc` -/

/-- Where control can be after an instruction from `s` (R63, R70, R117, R140). -/
inductive NextPc (s : State) : Word → Prop where
  | stay : NextPc s s.pc
  | past : NextPc s (s.pc + 2)
  | skip : NextPc s (s.pc + 4)
  | jump (nnn : Addr) : NextPc s (zextAddr nnn)
  | offset (nnn : Addr) : NextPc s (zextAddr nnn + zextByte (s.reg 0))
  | popped (k : Fin 16) (live : k.val < s.sp.val) : NextPc s (s.stack[k.val] + 2)

theorem nextPc_of_eq {s t : State} (h : t.pc = s.pc + 2) : NextPc s t.pc := h ▸ .past

theorem nextPc_skipIf (s : State) (c : Bool) : NextPc s (s.skipIf c).pc := by
  cases c
  · exact .past
  · exact .skip

theorem stack_getD (s : State) {k : Nat} (h : k < 16) : s.stack.getD k 0 = s.stack[k] := by
  simp [Vector.getD, h]

theorem nextPc_popped {s : State} (h : 0 < s.sp.val) : NextPc s (s.stack.getD (s.sp.val - 1) 0 + 2) := by
  have hk : s.sp.val - 1 < 16 := by omega
  rw [stack_getD s hk]
  exact .popped ⟨s.sp.val - 1, hk⟩ (Nat.sub_lt h Nat.one_pos)

/-- R26(f): every live stack entry is an address an instruction was fetched from. -/
def LiveLegal (s : State) : Prop := ∀ k : Fin 16, k.val < s.sp.val → (s.stack[k.val]).toNat ≤ 4094

/-- From a fetched instruction with legal live entries, control goes no further than 0xFFF + 0xFF (R26(e), R70). -/
theorem NextPc.le {s : State} {q : Word} (h : NextPc s q) (hpc : s.pc.toNat ≤ 4094)
    (hlive : LiveLegal s) : q.toNat ≤ 0x10FE := by
  cases h with
  | stay => omega
  | past => bv_omega
  | skip => bv_omega
  | jump nnn => simp only [zextAddr]; bv_omega
  | offset nnn => simp only [zextAddr, zextByte]; bv_omega
  | popped k live => have := hlive k live; bv_omega

/-! ## Everything an instruction can do: raise, or complete within its parts -/

theorem drawn_sameBut (x y n : Nibble) (s : State) : SameBut [.v, .fb, .dirty, .pc] s (drawn x y n s) :=
  sameBut_mono
    (sameBut_append (setFb_setDirty_sameBut s _ _) (sameBut_append (setVF_sameBut _ _) (advance_sameBut _)))
    (by decide)

theorem loadRun_mem (base k : Nat) (s : State) : (loadRun base k s).mem = s.mem := by
  rw [loadRun_eq]

/-- What holds of every completed instruction: its frame, where control is, and that memory stays canonical. -/
structure Completed (i : Instr) (s t : State) : Prop where
  frame : SameBut (writes i) s t
  nextPc : NextPc s t.pc
  memWf : s.mem.wf → t.mem.wf

/-- Where no condition of R130 holds, an instruction completes (R63). -/
theorem exec_completes {i : Instr} {s : State} (h : raiseCode i s = .none) :
    ∃ t, exec i s = .next t ∧ Completed i s t := by
  cases i
  -- control transfer (R70)
  case jpNnn nnn => exact ⟨_, rfl, setPc_sameBut s _, .jump nnn, id⟩
  case jpV0Nnn nnn => exact ⟨_, rfl, setPc_sameBut s _, .offset nnn, id⟩
  case ret =>
    have hsp := raiseCode_ret.1 h
    exact ⟨_, execRet_of_pos hsp, setSp_setPc_sameBut s _ _, nextPc_popped hsp, id⟩
  case callNnn nnn =>
    have hsp := raiseCode_callNnn.1 h
    exact ⟨_, execCallNnn_of_lt nnn hsp,
      sameBut_append (setStack_sameBut s (s.stack.set s.sp.val s.pc hsp)) (setSp_setPc_sameBut _ _ _), .jump nnn, id⟩
  -- skips (R75 to R78, R115, R116)
  case seVxKk | sneVxKk | seVxVy | sneVxVy => exact ⟨_, rfl, skipIf_sameBut s _, nextPc_skipIf s _, id⟩
  case skpVx x => exact ⟨_, execSkpVx_of_lt (raiseCode_skpVx.1 h), skipIf_sameBut s _, nextPc_skipIf s _, id⟩
  case sknpVx x => exact ⟨_, execSknpVx_of_lt (raiseCode_sknpVx.1 h), skipIf_sameBut s _, nextPc_skipIf s _, id⟩
  -- registers (R81 to R92, R118)
  case ldVxKk | addVxKk | ldVxVy | ldVxDt => exact ⟨_, rfl, setReg_advance_sameBut s _ _, .past, id⟩
  case orVxVy | andVxVy | xorVxVy | addVxVy | subVxVy | subnVxVy =>
    exact ⟨_, rfl, setReg_setReg_advance_sameBut s _ _ _ _, .past, id⟩
  case shrVxVy | shlVxVy =>
    exact ⟨_, rfl, sameBut_append (copyFlagShift_sameBut _ _ _ _ s) (advance_sameBut _), .past, id⟩
  case rndVxKk x kk =>
    exact ⟨_, rfl, sameBut_mono (sameBut_append (setDraws_sameBut s _) (setReg_advance_sameBut _ _ _)) (by simp [writes]),
      .past, id⟩
  -- index and memory (R95 to R100)
  case ldINnn | addIVx | ldFVx => exact ⟨_, rfl, setIdx_advance_sameBut s _, .past, id⟩
  case ldBVx x =>
    exact ⟨_, checked_of_le s _ (raiseCode_ldBVx.1 h), setThreeBytes_advance_sameBut s _ _ _ _ _ _, .past,
      fun hm => write_wf _ _ (write_wf _ _ (write_wf _ _ hm))⟩
  case ldMemVx x =>
    have hf := storeRun_sameBut (s.ea 0) (x.val + 1) s
    exact ⟨_, checked_of_le s _ (raiseCode_ldMemVx.1 h), sameBut_append hf (setIdx_advance_sameBut _ _),
      nextPc_of_eq (congrArg (· + 2) (hf .pc (by decide))), storeRun_wf _ _⟩
  case ldVxMem x =>
    have hf := loadRun_sameBut (s.ea 0) (x.val + 1) s
    exact ⟨_, checked_of_le s _ (raiseCode_ldVxMem.1 h), sameBut_append hf (setIdx_advance_sameBut _ _),
      nextPc_of_eq (congrArg (· + 2) (hf .pc (by decide))), (loadRun_mem _ _ s).symm ▸ id⟩
  -- display, keypad and timers (R105, R106, R117 to R120)
  case cls => exact ⟨_, rfl, sameBut_append (setFb_setDirty_sameBut s _ _) (advance_sameBut _), .past, id⟩
  case drwVxVyN x y n => exact ⟨_, execDrwVxVyN_of_le x y (raiseCode_drwVxVyN.1 h), drawn_sameBut x y n s, .past, id⟩
  case ldVxK x => exact ⟨_, rfl, sameBut_append (setWait_sameBut s true) (setWreg_sameBut _ x), .stay, id⟩
  case ldDtVx x => exact ⟨_, rfl, sameBut_append (setDt_sameBut s _) (advance_sameBut _), .past, id⟩
  case ldStVx x => exact ⟨_, rfl, sameBut_append (setSt_sameBut s _) (advance_sameBut _), .past, id⟩

/-- Settles O18: an instruction that completes does so within its parts. -/
theorem instructionsWriteOnlyTheirParts : Obligations.InstructionsWriteOnlyTheirParts := by
  intro i s h
  obtain ⟨t, ht, hc⟩ := exec_completes h
  exact ⟨t, ht, hc.frame⟩

/-- Everything an instruction can do: raise its code and change nothing else, or complete. -/
theorem exec_cases {i : Instr} {s t : State} (h : exec i s = .next t) :
    (raiseCode i s ≠ .none ∧ t = s.setErr (raiseCode i s)) ∨ (raiseCode i s = .none ∧ Completed i s t) := by
  by_cases hr : raiseCode i s = .none
  · obtain ⟨u, hu, hc⟩ := exec_completes hr
    cases hu.symm.trans h
    exact .inr ⟨hr, hc⟩
  · cases (exec_of_raiseCode hr).symm.trans h
    exact .inl ⟨hr, rfl⟩

/-- The parts that no instruction writes when it completes. -/
theorem not_mem_writes (i : Instr) : ∀ p ∈ writes i, p ∉ [.key, .run, .err, .trunc, .pending, .outputs] := by
  cases i <;> simp [writes]

/-- Only `Fx0A` writes `WAIT` (R20). -/
theorem eq_ldVxK_of_wait_mem {i : Instr} (h : .wait ∈ writes i) : ∃ x, i = .ldVxK x := by
  cases i <;> simp_all [writes]

/-- Only the two stack instructions write `SP` (R14). -/
theorem eq_ret_or_callNnn_of_sp_mem {i : Instr} (h : .sp ∈ writes i) : i = .ret ∨ ∃ nnn, i = .callNnn nnn := by
  cases i <;> simp_all [writes]

theorem eq_callNnn_of_stack_mem {i : Instr} (h : .stack ∈ writes i) : ∃ nnn, i = .callNnn nnn := by
  cases i <;> simp_all [writes]

theorem eq_cls_or_drwVxVyN_of_dirty_mem {i : Instr} (h : .dirty ∈ writes i) : i = .cls ∨ ∃ x y n, i = .drwVxVyN x y n := by
  cases i <;> simp_all [writes]

/-! ## The frame of each command (R6) -/

/-- The parts a command may write, whatever the state: a `Cycle` those of every instruction, of a fatal error and of a report. -/
def commandWrites : Command → List Part
  | .cycle => [.v, .idx, .pc, .stack, .sp, .dt, .st, .fb, .dirty, .wait, .wreg, .err, .mem, .draws, .outputs]
  | .tick => [.dt, .st]
  | .render => [.dirty, .outputs]
  | .setKey _ _ => [.v, .pc, .key, .wait]
  | .load _ | .reset => [.v, .idx, .pc, .stack, .sp, .dt, .st, .fb, .dirty, .run, .wait, .wreg, .err, .trunc, .mem]

theorem unrecognised_sameBut (w : Word) (s : State) : SameBut [.outputs, .pc] s (unrecognised w s) :=
  sameBut_append (setOutputs_sameBut s _) (advance_sameBut _)

theorem completeWait_sameBut (k : Nibble) (s : State) : SameBut [.v, .wait, .pc] s (completeWait k s) :=
  sameBut_append (setReg_sameBut s s.wreg (keyByte k)) (sameBut_append (setWait_sameBut _ false) (advance_sameBut _))

theorem tick_sameBut (s : State) : SameBut [.dt, .st] s (tick s) := by
  unfold tick
  split
  · exact sameBut_append (setDt_sameBut s (countDown s.dt)) (setSt_sameBut _ _)
  · exact sameBut_refl _ s

theorem render_sameBut (s : State) : SameBut [.dirty, .outputs] s (render s) := by
  unfold render
  split
  · exact sameBut_append (setDirty_sameBut s false) (setOutputs_sameBut _ _)
  · exact sameBut_refl _ s

/-- R146's four cases: a press edge that completes a wait, a press edge without one, a press of a key already down, a release. -/
theorem setKey_cases (k : Nibble) (p : Bool) (s : State) :
    (p = true ∧ s.keyDown k = false ∧ s.wait = true ∧
      setKey k p s = completeWait k { s with key := s.key.set k.val true }) ∨
    (p = true ∧ s.keyDown k = false ∧ s.wait = false ∧ setKey k p s = { s with key := s.key.set k.val true }) ∨
    (p = true ∧ s.keyDown k = true ∧ setKey k p s = s) ∨
    (p = false ∧ setKey k p s = { s with key := s.key.set k.val false }) := by
  cases p
  · simp [setKey]
  · cases hk : s.keyDown k <;> cases hw : s.wait <;> simp [setKey, hk, hw]

theorem setKey_sameBut (k : Nibble) (p : Bool) (s : State) : SameBut [.v, .pc, .key, .wait] s (setKey k p s) := by
  obtain ⟨-, -, -, e⟩ | ⟨-, -, -, e⟩ | ⟨-, -, e⟩ | ⟨-, e⟩ := setKey_cases k p s <;> rw [e]
  · exact sameBut_mono (sameBut_append (setLatch_sameBut s _) (completeWait_sameBut k _)) (by decide)
  · exact sameBut_mono (setLatch_sameBut s _) (by decide)
  · exact sameBut_refl _ s
  · exact sameBut_mono (setLatch_sameBut s _) (by decide)

theorem resetBlock_sameBut (s : State) : SameBut (commandWrites .reset) s (resetBlock s) := by
  intro p hp; cases p <;> simp_all [commandWrites, Part.Same, resetBlock, State.keyDown]

theorem load_sameBut (bytes : List Byte) (s : State) : SameBut (commandWrites .reset) s (load bytes s) := by
  intro p hp; cases p <;> simp_all [commandWrites, Part.Same, load, resetBlock, State.keyDown]

theorem cycle_sameBut {s t : State} (h : cycle s = .next t) : SameBut (commandWrites .cycle) s t := by
  obtain ⟨-, rfl⟩ | ⟨-, -, rfl⟩ | ⟨i, -, -, -, hi⟩ | ⟨e, -, -, -, rfl⟩ := cycle_cases h
  · exact sameBut_refl _ _
  · exact sameBut_mono (setErr_sameBut s _) (by decide)
  · obtain ⟨-, rfl⟩ | ⟨-, hc⟩ := exec_cases hi
    · exact sameBut_mono (setErr_sameBut s _) (by decide)
    · refine sameBut_mono hc.frame fun p hp => ?_
      have := not_mem_writes i p hp
      cases p <;> simp_all [commandWrites]
  · exact sameBut_mono (unrecognised_sameBut _ s) (by decide)

/-- A command writes only its own parts. -/
theorem perform_sameBut {c : Command} {s t : State} (h : perform c s = .next t) : SameBut (commandWrites c) s t := by
  cases c with
  | cycle => exact cycle_sameBut h
  | tick => cases h; exact tick_sameBut s
  | render => cases h; exact render_sameBut s
  | setKey k p => cases h; exact setKey_sameBut k p s
  | load bytes => cases h; exact load_sameBut bytes s
  | reset => cases h; exact resetBlock_sameBut s

/-- A part that a command changed is one it may write. -/
theorem mem_commandWrites {c : Command} {s t : State} {p : Part} (h : perform c s = .next t) (hp : ¬ p.Same s t) :
    p ∈ commandWrites c :=
  not_imp_comm.1 (perform_sameBut h p) hp

/-- A step performs the oldest pending command, or a `Cycle` when nothing is pending (R7). -/
theorem step_performs {s t : State} (h : step s = .next t) :
    ∃ c rest, perform c { s with pending := rest } = .next t ∧
      (s.pending.head? = some c ∨ (s.pending = [] ∧ c = .cycle)) := by
  cases hp : s.pending with
  | nil =>
    have hs : { s with pending := [] } = s := by rw [← hp]
    exact ⟨.cycle, [], hs.symm ▸ (step_idle hp).symm.trans h, .inr ⟨rfl, rfl⟩⟩
  | cons c rest => exact ⟨c, rest, (step_pending hp).symm.trans h, .inl rfl⟩

/-! ## `DIRTY` (R17) -/

/-- No `Cycle` clears `DIRTY`: the two instructions that write it set it or keep it (R105, R106). -/
theorem cycle_keeps_dirty {s t : State} (h : cycle s = .next t) (hd : s.dirty = true) : t.dirty = true := by
  obtain ⟨-, rfl⟩ | ⟨-, -, rfl⟩ | ⟨i, -, -, -, hi⟩ | ⟨e, -, -, -, rfl⟩ := cycle_cases h
  · exact hd
  · exact hd
  · obtain ⟨-, rfl⟩ | ⟨hr, hc⟩ := exec_cases hi
    · exact hd
    · by_cases hw : .dirty ∈ writes i
      · obtain rfl | ⟨x, y, n, rfl⟩ := eq_cls_or_drwVxVyN_of_dirty_mem hw
        · cases hi; rfl
        · cases (execDrwVxVyN_of_le x y (raiseCode_drwVxVyN.1 hr)).symm.trans hi
          simp [drawn, hd]
      · exact (hc.frame .dirty hw).trans hd
  · exact hd

theorem eq_render_of_perform_clears_dirty {c : Command} {s t : State} (h : perform c s = .next t) (hs : s.dirty = true)
    (ht : t.dirty = false) : c = .render := by
  cases c with
  | render => rfl
  | cycle => exact absurd (cycle_keeps_dirty h hs) (by simp [ht])
  | load bytes => cases h; cases ht
  | reset => cases h; cases ht
  | tick | setKey => exact absurd (mem_commandWrites h (p := .dirty) (by simp [Part.Same, hs, ht])) (by simp [commandWrites])

/-- Settles O20: of the commands that may write `DIRTY`, only `Render` clears it. -/
theorem dirtyIsClearedOnlyByRender : Obligations.DirtyIsClearedOnlyByRender := by
  intro s t h hs ht
  obtain ⟨c, rest, hc, hp⟩ := step_performs h
  obtain rfl := eq_render_of_perform_clears_dirty hc hs ht
  exact hp.resolve_right (by simp)

/-! ## The key latch (R18) -/

/-- After `SetKey(k, p)` the latch of `k` is `p`, and every other key's is as before (R146). -/
theorem setKey_keyDown (k : Nibble) (p : Bool) (s : State) (j : Nibble) :
    (setKey k p s).keyDown j = if k = j then p else s.keyDown j := by
  have hset (b : Bool) : (s.key.set k.val b)[j.val] = if k = j then b else s.keyDown j := by
    simp only [Vector.getElem_set, Fin.ext_iff, State.keyDown]
  obtain ⟨rfl, -, -, e⟩ | ⟨rfl, -, -, e⟩ | ⟨rfl, hk, e⟩ | ⟨rfl, e⟩ := setKey_cases k p s <;> rw [e]
  · exact hset true
  · exact hset true
  · split
    · next hkj => rw [← hkj, hk]
    · rfl
  · exact hset false

theorem eq_setKey_of_key_mem {c : Command} (h : .key ∈ commandWrites c) : ∃ k p, c = .setKey k p := by
  cases c <;> simp_all [commandWrites]

/-- Settles O21: only `SetKey` may write the latch, and it changes no key but its own. -/
theorem keyLatchIsWrittenOnlyBySetKey : Obligations.KeyLatchIsWrittenOnlyBySetKey := by
  intro s t k h hk
  obtain ⟨c, rest, hc, hp⟩ := step_performs h
  obtain ⟨j, p, rfl⟩ := eq_setKey_of_key_mem (mem_commandWrites hc (p := .key) fun hs => hk (hs k))
  cases hc
  have hjk : j = k := by
    by_contra hne
    exact hk (by rw [setKey_keyDown, if_neg hne]; rfl)
  rw [setKey_keyDown, if_pos hjk, ← hjk]
  exact hp.resolve_right (by simp)

/-! ## `RUN` and `WAIT` (R19, R20) -/

theorem eq_load_or_reset_of_run_mem {c : Command} (h : .run ∈ commandWrites c) : (∃ bytes, c = .load bytes) ∨ c = .reset := by
  cases c <;> simp_all [commandWrites]

/-- A command that changes `RUN` is a `Load`, which sets it, or `Reset`, which clears it (R160, R162). -/
theorem perform_changes_run {c : Command} {s t : State} (h : perform c s = .next t) (hr : t.run ≠ s.run) :
    (t.run = true ∧ ∃ bytes, c = .load bytes) ∨ (t.run = false ∧ c = .reset) := by
  obtain ⟨bytes, rfl⟩ | rfl := eq_load_or_reset_of_run_mem (mem_commandWrites h (p := .run) hr) <;> cases h
  · exact .inl ⟨rfl, bytes, rfl⟩
  · exact .inr ⟨rfl, rfl⟩

/-- `SetKey` never begins a wait, and ends one only by a press edge (R117, R146). -/
theorem setKey_wait (k : Nibble) (p : Bool) (s : State) :
    (setKey k p s).wait = s.wait ∨ ((setKey k p s).wait = false ∧ p = true ∧ s.keyDown k = false) := by
  obtain ⟨hp, hk, -, e⟩ | ⟨-, -, -, e⟩ | ⟨-, -, e⟩ | ⟨-, e⟩ := setKey_cases k p s <;> rw [e]
  · exact .inr ⟨rfl, hp, hk⟩
  all_goals exact .inl rfl

/-- A `Cycle` never ends a wait: while one is on, it is gated (R60). -/
theorem cycle_of_wait {s t : State} (h : cycle s = .next t) (hw : s.wait = true) : t = s := by
  have hg : s.gated = true := by simp [State.gated, hw]
  simpa [cycle, hg] using h.symm

/-- A command that changes `WAIT` begins the wait as a `Cycle`, or ends it as a press edge, `Reset` or `Load`. -/
theorem perform_changes_wait {c : Command} {s t : State} (h : perform c s = .next t) (hw : t.wait ≠ s.wait) :
    (t.wait = true ∧ c = .cycle) ∨
      (t.wait = false ∧ ((∃ k, c = .setKey k true ∧ s.keyDown k = false) ∨ c = .reset ∨ ∃ bytes, c = .load bytes)) := by
  cases c with
  | cycle =>
    cases hs : s.wait with
    | false => exact .inl ⟨by simpa [hs] using hw, rfl⟩
    | true => exact absurd (congrArg State.wait (cycle_of_wait h hs)) hw
  | setKey k p =>
    cases h
    obtain e | ⟨ht, rfl, hk⟩ := setKey_wait k p s
    · exact absurd e hw
    · exact .inr ⟨ht, .inl ⟨k, rfl, hk⟩⟩
  | load bytes => cases h; exact .inr ⟨rfl, .inr (.inr ⟨bytes, rfl⟩)⟩
  | reset => cases h; exact .inr ⟨rfl, .inr (.inl rfl)⟩
  | tick | render => exact absurd (mem_commandWrites h (p := .wait) hw) (by simp [commandWrites])

/-- Settles O22: each change of `RUN` or `WAIT` is one of its commands'. -/
theorem runAndWaitChangeOnlyByTheirCommands : Obligations.RunAndWaitChangeOnlyByTheirCommands := by
  intro s t h
  obtain ⟨c, rest, hc, hp⟩ := step_performs h
  refine ⟨fun hs ht => ?_, fun hs ht => ?_, fun hs ht => ?_, fun hs ht => ?_⟩
  · obtain ⟨-, bytes, rfl⟩ | ⟨hf, -⟩ := perform_changes_run hc (by simp [hs, ht])
    · exact ⟨bytes, hp.resolve_right (by simp)⟩
    · simp [ht] at hf
  · obtain ⟨hf, -⟩ | ⟨-, rfl⟩ := perform_changes_run hc (by simp [hs, ht])
    · simp [ht] at hf
    · exact hp.resolve_right (by simp)
  · obtain ⟨-, rfl⟩ | ⟨hf, -⟩ := perform_changes_wait hc (by simp [hs, ht])
    · exact hp.symm.imp_left And.left
    · simp [ht] at hf
  · obtain ⟨hf, -⟩ | ⟨-, ⟨k, rfl, hk⟩ | rfl | ⟨bytes, rfl⟩⟩ := perform_changes_wait hc (by simp [hs, ht])
    · simp [ht] at hf
    · exact .inl ⟨k, hp.resolve_right (by simp), hk⟩
    · exact .inr (.inl (hp.resolve_right (by simp)))
    · exact .inr (.inr ⟨bytes, hp.resolve_right (by simp)⟩)

/-! ## Power-on (R25) -/

theorem blank_get (r c : Nat) : Grid.get Grid.blank r c = false := by
  simp [Grid.get, Grid.blank]

/-- Settles O13: power-on holds R25's values, whatever the font. -/
theorem powerOnHoldsTheResetValues : Obligations.PowerOnHoldsTheResetValues := by
  have hreg (x : Nibble) : State.reset.reg x = 0 := Vector.getElem_replicate x.isLt
  have hstack (k : Fin 16) : State.reset.stack[k.val] = 0 := Vector.getElem_replicate k.isLt
  have hkey (k : Nibble) : State.reset.keyDown k = false := Vector.getElem_replicate k.isLt
  have hfont (a : Nat) (ha : a < 80) : State.reset.byteAt a = Config.font a := if_pos ha
  have hzero (a : Nat) (ha : 80 ≤ a) : State.reset.byteAt a = 0 := if_neg (Nat.not_lt.2 ha)
  exact ⟨hreg, rfl, rfl, hstack, rfl, rfl, rfl, hfont, hzero, blank_get, rfl, hkey, rfl, rfl, rfl, rfl, rfl⟩

/-- Settles O14: power-on is not waiting, is blank, and has no live entry. -/
theorem powerOnMeetsTheInvariant : Obligations.PowerOnMeetsTheInvariant where
  memCanonical := reset_mem_wf
  waitRuns h := by cases h
  waitAtInstr h := by cases h
  unloaded _ := ⟨rfl, rfl, rfl, rfl, rfl, rfl, powerOnHoldsTheResetValues.1, rfl, blank_get, rfl⟩
  pcBound := by decide
  liveEntries k h := absurd h (Nat.not_lt_zero _)

/-! ## What the invariant does not read -/

/-- The invariant reads neither the latch, `DIRTY`, `TRUNC` nor the model's own fields. -/
theorem stateInv_of_unread {s : State} (h : StateInv s) (dirty : Bool) (key : Vector Bool 16) (trunc : Bool)
    (pending : List Command) (draws : Nat) (outputs : List Output) :
    StateInv { s with dirty, key, trunc, pending, draws, outputs } where
  memCanonical := h.memCanonical
  waitRuns := h.waitRuns
  waitAtInstr := h.waitAtInstr
  unloaded := h.unloaded
  pcBound := h.pcBound
  liveEntries := h.liveEntries

/-- On a loaded engine that does not wait, the invariant is the canonical memory and the bounds on `pc` and the stack. -/
theorem stateInv_of_running {s : State} (hrun : s.run = true) (hwait : s.wait = false) (hmem : s.mem.wf)
    (hpc : s.pc.toNat ≤ 0x10FE) (hlive : LiveLegal s) : StateInv s where
  memCanonical := hmem
  waitRuns h := by simp [hwait] at h
  waitAtInstr h := by simp [hwait] at h
  unloaded h := by simp [hrun] at h
  pcBound := hpc
  liveEntries := hlive

/-! ## What an instruction keeps of the invariant -/

/-- A call pushes the address of a fetched instruction, a return drops the top entry, and nothing else touches the stack (R14). -/
theorem exec_keeps_live {i : Instr} {s t : State} (h : exec i s = .next t) (hpc : s.pc.toNat ≤ 4094)
    (hlive : LiveLegal s) : LiveLegal t := by
  obtain ⟨-, rfl⟩ | ⟨hr, hc⟩ := exec_cases h
  · exact hlive
  by_cases hsp : .sp ∈ writes i
  · obtain rfl | ⟨nnn, rfl⟩ := eq_ret_or_callNnn_of_sp_mem hsp
    · cases (execRet_of_pos (raiseCode_ret.1 hr)).symm.trans h
      exact fun k hk => hlive k (Nat.lt_of_lt_of_le hk (Nat.sub_le _ _))
    · cases (execCallNnn_of_lt nnn (raiseCode_callNnn.1 hr)).symm.trans h
      intro k hk
      rw [Vector.getElem_set]
      split
      · exact hpc
      · next hne => exact hlive k (Nat.lt_of_le_of_ne (Nat.le_of_lt_succ hk) (Ne.symm hne))
  · have hst : .stack ∉ writes i := fun hm => by
      obtain ⟨nnn, rfl⟩ := eq_callNnn_of_stack_mem hm
      simp [writes] at hsp
    intro k hk
    rw [hc.frame .sp hsp] at hk
    rw [hc.frame .stack hst k]
    exact hlive k hk

theorem exec_nextPc {i : Instr} {s t : State} (h : exec i s = .next t) : NextPc s t.pc := by
  obtain ⟨-, rfl⟩ | ⟨-, hc⟩ := exec_cases h
  · exact .stay
  · exact hc.nextPc

theorem exec_keeps_mem_wf {i : Instr} {s t : State} (h : exec i s = .next t) (hmem : s.mem.wf) : t.mem.wf := by
  obtain ⟨-, rfl⟩ | ⟨-, hc⟩ := exec_cases h
  · exact hmem
  · exact hc.memWf hmem

theorem exec_keeps_run {i : Instr} {s t : State} (h : exec i s = .next t) : t.run = s.run := by
  obtain ⟨-, rfl⟩ | ⟨-, hc⟩ := exec_cases h
  · rfl
  · exact hc.frame .run fun hm => not_mem_writes i _ hm (by decide)

theorem exec_keeps_wait {i : Instr} {s t : State} (h : exec i s = .next t) (hi : ∀ x, i ≠ .ldVxK x) : t.wait = s.wait := by
  obtain ⟨-, rfl⟩ | ⟨-, hc⟩ := exec_cases h
  · rfl
  · refine hc.frame .wait fun hm => ?_
    obtain ⟨x, hx⟩ := eq_ldVxK_of_wait_mem hm
    exact hi x hx

/-! ## The invariant, command by command -/

theorem exec_keeps_inv {i : Instr} {s t : State} (hs : StateInv s) (hg : s.gated = false) (hpc : s.pc.toNat ≤ 4094)
    (hi : decodeWord s.fetchWord = .ok i) (h : exec i s = .next t) : StateInv t := by
  obtain ⟨hrun, herr, hwait⟩ := gated_eq_false.1 hg
  by_cases hk : ∃ x, i = .ldVxK x
  · obtain ⟨x, rfl⟩ := hk
    cases h
    exact {
      memCanonical := hs.memCanonical
      waitRuns := fun _ => ⟨hrun, herr⟩
      waitAtInstr := fun _ => ⟨hpc, hi⟩
      unloaded := fun hr => by simp [hrun] at hr
      pcBound := hs.pcBound
      liveEntries := hs.liveEntries }
  · have hne : ∀ x, i ≠ .ldVxK x := fun x hx => hk ⟨x, hx⟩
    exact stateInv_of_running ((exec_keeps_run h).trans hrun) ((exec_keeps_wait h hne).trans hwait)
      (exec_keeps_mem_wf h hs.memCanonical) ((exec_nextPc h).le hpc hs.liveEntries) (exec_keeps_live h hpc hs.liveEntries)

theorem cycle_keeps_inv {s t : State} (hs : StateInv s) (h : cycle s = .next t) : StateInv t := by
  obtain ⟨-, rfl⟩ | ⟨hg, -, rfl⟩ | ⟨i, hg, hpc, hi, hx⟩ | ⟨e, hg, hpc, -, rfl⟩ := cycle_cases h
  · exact hs
  · obtain ⟨hrun, -, hwait⟩ := gated_eq_false.1 hg
    exact stateInv_of_running hrun hwait hs.memCanonical hs.pcBound hs.liveEntries
  · exact exec_keeps_inv hs hg hpc hi hx
  · obtain ⟨hrun, -, hwait⟩ := gated_eq_false.1 hg
    exact stateInv_of_running hrun hwait hs.memCanonical (NextPc.past.le hpc hs.liveEntries) hs.liveEntries

/-- `Tick` counts only on a loaded engine, so an unloaded one keeps its timers at 0 (R26(d), R144). -/
theorem tick_keeps_inv {s : State} (hs : StateInv s) : StateInv (tick s) := by
  unfold tick
  split
  · next hrun => exact {
      memCanonical := hs.memCanonical
      waitRuns := hs.waitRuns
      waitAtInstr := hs.waitAtInstr
      unloaded := fun hr => by simp [hrun] at hr
      pcBound := hs.pcBound
      liveEntries := hs.liveEntries }
  · exact hs

theorem render_keeps_inv {s : State} (hs : StateInv s) : StateInv (render s) := by
  unfold render
  split
  · exact stateInv_of_unread hs _ _ _ _ _ _
  · exact hs

/-- The `Fx0A` a wait is at was fetched, so `pc + 2` is in bounds when the wait completes (R117). -/
theorem completeWait_keeps_inv (k : Nibble) {s : State} (hs : StateInv s) (hwait : s.wait = true) :
    StateInv (completeWait k s) :=
  stateInv_of_running (hs.waitRuns hwait).1 rfl hs.memCanonical
    (NextPc.past.le (hs.waitAtInstr hwait).1 hs.liveEntries) hs.liveEntries

theorem setKey_keeps_inv (k : Nibble) (p : Bool) {s : State} (hs : StateInv s) : StateInv (setKey k p s) := by
  have hlatch (f : Vector Bool 16) : StateInv { s with key := f } := stateInv_of_unread hs _ _ _ _ _ _
  obtain ⟨-, -, hw, e⟩ | ⟨-, -, -, e⟩ | ⟨-, -, e⟩ | ⟨-, e⟩ := setKey_cases k p s <;> rw [e]
  · exact completeWait_keeps_inv k (hlatch _) hw
  · exact hlatch _
  · exact hs
  · exact hlatch _

theorem resetBlock_inv (s : State) : StateInv (resetBlock s) := stateInv_of_unread powerOnMeetsTheInvariant _ _ _ _ _ _

theorem load_inv (bytes : List Byte) (s : State) : StateInv (load bytes s) :=
  stateInv_of_running rfl rfl (copyBytes_wf _ _ reset_mem_wf) (resetBlock_inv s).pcBound (resetBlock_inv s).liveEntries

theorem perform_keeps_inv {c : Command} {s t : State} (hs : StateInv s) (h : perform c s = .next t) : StateInv t := by
  cases c with
  | cycle => exact cycle_keeps_inv hs h
  | tick => cases h; exact tick_keeps_inv hs
  | render => cases h; exact render_keeps_inv hs
  | setKey k p => cases h; exact setKey_keeps_inv k p hs
  | load bytes => cases h; exact load_inv bytes s
  | reset => cases h; exact resetBlock_inv s

/-- Settles O15: a step performs one command, and every command keeps the invariant. -/
theorem everyStepKeepsTheInvariant : Obligations.EveryStepKeepsTheInvariant := by
  intro s t hs h
  obtain ⟨c, rest, hc, -⟩ := step_performs h
  exact perform_keeps_inv (stateInv_of_unread hs _ _ _ rest _ _) hc

end Sys2Proof.Proofs

namespace Sys2Proof.Proofs

open Sys2Proof.Machine Sys2Proof.Laws

/-!
SUPPORT. Proofs of the statements about memory (spec/20_memory.md): the canonical form, the range check of accesses through `I`, and
the font's place.
-/

/-! ## The canonical form (R30, log 6): the list holds exactly the bytes that differ from the reset contents -/

/-- With rising addresses, a listed cell is what its address reads as. -/
theorem read_of_mem {m : Memory} (hm : m.Pairwise (fun p q => p.1 < q.1)) {p : Host.Cell} (hp : p ∈ m) : m.read p.1 = p.2 := by
  induction m with
  | nil => cases hp
  | cons q rest ih =>
    obtain ⟨hq, hrest⟩ := List.pairwise_cons.1 hm
    obtain rfl | hp := List.mem_cons.1 hp
    · exact if_pos rfl
    · have hne : p.1 ≠ q.1 := Nat.ne_of_gt (hq p hp)
      exact (if_neg hne).trans (ih hrest hp)

/-- What a canonical memory lists can be told from its reads alone. -/
theorem mem_iff_read {m : Memory} (hm : m.wf) (p : Host.Cell) : p ∈ m ↔ m.read p.1 = p.2 ∧ p.2 ≠ Config.resetByte p.1 := by
  obtain ⟨hsorted, hcells⟩ := hm
  refine ⟨fun hp => ⟨read_of_mem hsorted hp, (hcells p hp).2⟩, fun ⟨hread, hne⟩ => ?_⟩
  have hlisted : ∃ q ∈ m, q.1 = p.1 := by
    by_contra h
    exact hne (hread.symm.trans (read_eq_blank fun q hq e => h ⟨q, hq, e⟩))
  obtain ⟨q, hq, he⟩ := hlisted
  have hqp : q = p := Prod.ext he (by rw [← read_of_mem hsorted hq, he, hread])
  exact hqp ▸ hq

/-- Settles O16: memories that read alike list the same cells, and both lists are in address order. -/
theorem canonicalMemoriesThatReadAlikeAreEqual : Obligations.CanonicalMemoriesThatReadAlikeAreEqual := by
  intro m m' hm hm' hread
  have hirrefl : Std.Irrefl (fun p q : Host.Cell => p.1 < q.1) := ⟨fun p => Nat.lt_irrefl p.1⟩
  have hantisymm : Std.Antisymm (fun p q : Host.Cell => p.1 < q.1) := ⟨fun _ _ h h' => absurd h' (Nat.lt_asymm h)⟩
  have hcells (p : Host.Cell) : p ∈ m ↔ p ∈ m' := by rw [mem_iff_read hm, mem_iff_read hm', hread]
  exact hm.1.eq_of_mem_iff hm'.1 hcells

/-! ## An access that reaches past 4095 (R35, R133) -/

/-- An instruction under a condition of R130 raises that condition's code and changes nothing else. -/
theorem exec_raises {i : Instr} {s : State} {e : ErrorCode} (h : raiseCode i s = e) (he : e ≠ .none) :
    ∃ t, exec i s = .next t ∧ t.err = e ∧ SameBut [.err] s t :=
  ⟨s.setErr e, h ▸ exec_of_raiseCode (h.trans_ne he), rfl, setErr_sameBut s e⟩

/-- R133 on one form: where its range condition holds, it raises `AddressError` alone. -/
theorem exec_raises_addressError {i : Instr} {s : State} {c : Bool} (hi : raiseCode i s = codeIf c .addressError)
    (hc : c = true) : ∃ t, exec i s = .next t ∧ t.err = .addressError ∧ SameBut [.err] s t :=
  exec_raises (hi.trans (if_pos hc)) (by decide)

/-- Settles O44: each form's highest address beyond 4095 is its condition in R130's table. -/
theorem accessBeyondMemoryRaises : Obligations.AccessBeyondMemoryRaises := by
  intro x y n s
  refine ⟨fun h => ?_, fun h => ?_, fun h => ?_, fun hn h => ?_⟩
  · exact exec_raises_addressError (i := .ldBVx x) rfl (decide_eq_true h)
  · exact exec_raises_addressError (i := .ldMemVx x) rfl (decide_eq_true h)
  · exact exec_raises_addressError (i := .ldVxMem x) rfl (decide_eq_true h)
  · exact exec_raises_addressError (i := .drwVxVyN x y n) rfl (by simp [hn, h])

/-! ## The font's place (R31, R97) -/

/-- Five times a byte fits a 16-bit word, so `Fx29` never wraps (D20). -/
theorem zextByte_mul_five_toNat (u : Byte) : (zextByte u * 5).toNat = 5 * u.toNat := by
  simp only [zextByte]
  bv_omega

/-- At power-on the bytes below 80 are the font (R25, R31). -/
theorem reset_byteAt_of_lt {a : Nat} (h : a < 80) : State.reset.byteAt a = Config.font a := by
  obtain ⟨-, -, -, -, -, -, -, hfont, -⟩ := powerOnHoldsTheResetValues
  exact hfont a h

/-- Settles O46: row `row` of a glyph 0 to 15 lies below 80, where the font still stands. -/
theorem fontPointerFindsTheGlyph : Obligations.FontPointerFindsTheGlyph := by
  intro x s row hx hrow hfont
  have hrange : 5 * (s.reg x).toNat + row < 80 := by omega
  refine ⟨_, rfl, ?_⟩
  calc s.byteAt ((zextByte (s.reg x) * 5).toNat + row)
    _ = s.byteAt (5 * (s.reg x).toNat + row) := by rw [zextByte_mul_five_toNat]
    _ = State.reset.byteAt (5 * (s.reg x).toNat + row) := hfont _ hrange
    _ = Config.font (5 * (s.reg x).toNat + row) := reset_byteAt_of_lt hrange

end Sys2Proof.Proofs

namespace Sys2Proof.Proofs

open Sys2Proof.Machine Sys2Proof.Laws

/-!
SUPPORT. Proofs of the statements about encoding (spec/30_encoding.md): fields and formats as numbers, the decoder against the
encoder, the opcode map and the unrecognised words.
-/

/-! ## Fields and formats as numbers (R47, R48) -/

theorem toNat_append_eq {m n : Nat} (a : BitVec m) (b : BitVec n) : (a ++ b).toNat = a.toNat * 2 ^ n + b.toNat := by
  rw [BitVec.toNat_append, ← Nat.shiftLeft_add_eq_or_of_lt b.isLt, Nat.shiftLeft_eq]

theorem fieldOp_val (w : Word) : (fieldOp w).val = w.toNat / 4096 := by
  have : (fieldOp w).val = w.toNat >>> 12 % 2 ^ 4 := BitVec.extractLsb'_toNat 12 4 w
  omega

theorem fieldX_val (w : Word) : (fieldX w).val = w.toNat / 256 % 16 := by
  have : (fieldX w).val = w.toNat >>> 8 % 2 ^ 4 := BitVec.extractLsb'_toNat 8 4 w
  omega

theorem fieldY_val (w : Word) : (fieldY w).val = w.toNat / 16 % 16 := by
  have : (fieldY w).val = w.toNat >>> 4 % 2 ^ 4 := BitVec.extractLsb'_toNat 4 4 w
  omega

theorem fieldN_val (w : Word) : (fieldN w).val = w.toNat % 16 := BitVec.extractLsb'_toNat 0 4 w

theorem fieldKK_toNat (w : Word) : (fieldKK w).toNat = w.toNat % 256 := BitVec.extractLsb'_toNat 0 8 w

theorem fieldNNN_toNat (w : Word) : (fieldNNN w).toNat = w.toNat % 4096 := BitVec.extractLsb'_toNat 0 12 w

theorem formatNNN_toNat (op : Nibble) (nnn : Addr) : (formatNNN op nnn).toNat = 4096 * op.val + nnn.toNat := by
  simp only [formatNNN, toNat_append_eq, BitVec.toNat_ofFin]; omega

theorem formatXKK_toNat (op x : Nibble) (kk : Byte) :
    (formatXKK op x kk).toNat = 4096 * op.val + 256 * x.val + kk.toNat := by
  simp only [formatXKK, toNat_append_eq, BitVec.toNat_ofFin]; omega

theorem formatXYN_toNat (op x y n : Nibble) :
    (formatXYN op x y n).toNat = 4096 * op.val + 256 * x.val + 16 * y.val + n.val := by
  simp only [formatXYN, toNat_append_eq, BitVec.toNat_ofFin]; omega

/-! ## A word is of a format exactly when the format's operands are its fields -/

theorem formatNNN_eq_iff {op : Nibble} {nnn : Addr} {w : Word} :
    formatNNN op nnn = w ↔ fieldOp w = op ∧ fieldNNN w = nnn := by
  simp only [← BitVec.toNat_inj, Fin.ext_iff, formatNNN_toNat, fieldOp_val, fieldNNN_toNat]
  omega

theorem formatXKK_eq_iff {op x : Nibble} {kk : Byte} {w : Word} :
    formatXKK op x kk = w ↔ fieldOp w = op ∧ fieldX w = x ∧ fieldKK w = kk := by
  simp only [← BitVec.toNat_inj, Fin.ext_iff, formatXKK_toNat, fieldOp_val, fieldX_val, fieldKK_toNat]
  omega

theorem formatXYN_eq_iff {op x y n : Nibble} {w : Word} :
    formatXYN op x y n = w ↔ fieldOp w = op ∧ fieldX w = x ∧ fieldY w = y ∧ fieldN w = n := by
  simp only [← BitVec.toNat_inj, Fin.ext_iff, formatXYN_toNat, fieldOp_val, fieldX_val, fieldY_val, fieldN_val]
  omega

@[simp] theorem formatNNN_fields (op : Nibble) (nnn : Addr) :
    fieldOp (formatNNN op nnn) = op ∧ fieldNNN (formatNNN op nnn) = nnn :=
  formatNNN_eq_iff.1 rfl

@[simp] theorem formatXKK_fields (op x : Nibble) (kk : Byte) :
    fieldOp (formatXKK op x kk) = op ∧ fieldX (formatXKK op x kk) = x ∧ fieldKK (formatXKK op x kk) = kk :=
  formatXKK_eq_iff.1 rfl

@[simp] theorem formatXYN_fields (op x y n : Nibble) :
    fieldOp (formatXYN op x y n) = op ∧ fieldX (formatXYN op x y n) = x ∧ fieldY (formatXYN op x y n) = y ∧
      fieldN (formatXYN op x y n) = n :=
  formatXYN_eq_iff.1 rfl

/-! ## Words and their two bytes (R46) -/

theorem highByte_wordOfBytes (b0 b1 : Byte) : highByte (wordOfBytes b0 b1) = b0 := BitVec.extractLsb'_append_eq_left

theorem lowByte_wordOfBytes (b0 b1 : Byte) : lowByte (wordOfBytes b0 b1) = b1 := BitVec.extractLsb'_append_eq_right

theorem wordOfBytes_toNat (b0 b1 : Byte) : (wordOfBytes b0 b1).toNat = 256 * b0.toNat + b1.toNat := by
  rw [wordOfBytes, toNat_append_eq]; omega

theorem wordOfBytes_highByte_lowByte (w : Word) : wordOfBytes (highByte w) (lowByte w) = w :=
  (BitVec.extractLsb'_append_extractLsb'_eq_extractLsb' (start₁ := 0) (len₁ := 8) rfl).trans BitVec.extractLsb'_eq_self

/-- Settles O2: the word is `256 * b0 + b1`, and each field is its digits of that number. -/
theorem fieldsAreTheBytesNibbles : Obligations.FieldsAreTheBytesNibbles := by
  intro b0 b1
  have hkk : fieldKK (wordOfBytes b0 b1) = b1 := lowByte_wordOfBytes b0 b1
  refine ⟨highByte_wordOfBytes b0 b1, lowByte_wordOfBytes b0 b1, wordOfBytes_toNat b0 b1, ?_, ?_, ?_, ?_, hkk, ?_⟩
  · rw [fieldOp_val, wordOfBytes_toNat]; omega
  · rw [fieldX_val, wordOfBytes_toNat]; omega
  · rw [fieldY_val, wordOfBytes_toNat]; omega
  · rw [fieldN_val, wordOfBytes_toNat]; omega
  · rw [fieldNNN_toNat, wordOfBytes_toNat]; omega

/-- Settles O1: the decoder, run on each word. -/
theorem patternWordsDecodeToTheirInstructions : Obligations.PatternWordsDecodeToTheirInstructions :=
  ⟨rfl, rfl, rfl, rfl, rfl, rfl, rfl, rfl, rfl, rfl, rfl, rfl, rfl, rfl, rfl, rfl⟩

/-! ## Decoding an instruction's own word -/

/-- Group by group, the fields of an instruction's format are its operands and its selectors (R48, R50). -/
theorem decodeWord_encode (i : Instr) : decodeWord (encode i) = .ok i := by
  cases i with
  | cls | ret => rfl
  | jpNnn | callNnn | ldINnn | jpV0Nnn | seVxKk | sneVxKk | ldVxKk | addVxKk | rndVxKk | drwVxVyN => simp [encode, decodeWord]
  | seVxVy => simp [encode, decodeWord, decodeGroup5]
  | sneVxVy => simp [encode, decodeWord, decodeGroup9]
  | ldVxVy | orVxVy | andVxVy | xorVxVy | addVxVy | subVxVy | shrVxVy | subnVxVy | shlVxVy =>
    simp [encode, decodeWord, decodeGroup8]
  | skpVx | sknpVx => simp [encode, decodeWord, decodeGroupE]
  | ldVxDt | ldVxK | ldDtVx | ldStVx | addIVx | ldFVx | ldBVx | ldMemVx | ldVxMem =>
    simp [encode, decodeWord, decodeGroupF]

/-- Settles O3: the two bytes of `encode i` make up that word again, and `decodeWord_encode` reads it. -/
theorem decodeOfEncodeIsTheInstruction : Obligations.DecodeOfEncodeIsTheInstruction := by
  intro i rest
  refine ⟨decodeWord_encode i, ?_⟩
  simp [encodeBytes, decode, wordOfBytes_highByte_lowByte, decodeWord_encode]

/-! ## The word of a decoded instruction, group by group -/

theorem encode_of_decodeGroup0 {w : Word} {i : Instr} (h : decodeGroup0 w = .ok i) : encode i = w := by
  unfold decodeGroup0 at h
  split_ifs at h with h1 h2 <;> cases h
  · exact h1.symm
  · exact h2.symm

theorem encode_of_decodeGroup5 {w : Word} {i : Instr} (hop : fieldOp w = 0x5) (h : decodeGroup5 w = .ok i) : encode i = w := by
  unfold decodeGroup5 at h
  split_ifs at h with hn
  cases h
  exact formatXYN_eq_iff.2 ⟨hop, rfl, rfl, hn⟩

theorem encode_of_decodeGroup8 {w : Word} {i : Instr} (hop : fieldOp w = 0x8) (h : decodeGroup8 w = .ok i) : encode i = w := by
  unfold decodeGroup8 at h
  split at h <;> cases h
  all_goals exact formatXYN_eq_iff.2 ⟨hop, rfl, rfl, ‹_›⟩

theorem encode_of_decodeGroup9 {w : Word} {i : Instr} (hop : fieldOp w = 0x9) (h : decodeGroup9 w = .ok i) : encode i = w := by
  unfold decodeGroup9 at h
  split_ifs at h with hn
  cases h
  exact formatXYN_eq_iff.2 ⟨hop, rfl, rfl, hn⟩

theorem encode_of_decodeGroupE {w : Word} {i : Instr} (hop : fieldOp w = 0xE) (h : decodeGroupE w = .ok i) : encode i = w := by
  unfold decodeGroupE at h
  split_ifs at h <;> cases h
  all_goals exact formatXKK_eq_iff.2 ⟨hop, rfl, ‹_›⟩

theorem encode_of_decodeGroupF {w : Word} {i : Instr} (hop : fieldOp w = 0xF) (h : decodeGroupF w = .ok i) : encode i = w := by
  unfold decodeGroupF at h
  split_ifs at h <;> cases h
  all_goals exact formatXKK_eq_iff.2 ⟨hop, rfl, ‹_›⟩

/-- Settles O4: in each group, the operands read are the word's own fields. -/
theorem encodeOfDecodeIsTheWord : Obligations.EncodeOfDecodeIsTheWord := by
  intro w i h
  obtain ⟨op, hop⟩ : ∃ op, fieldOp w = op := ⟨_, rfl⟩
  rw [decodeWord, hop] at h
  fin_cases op -- the sixteen groups, 0 to F
  · exact encode_of_decodeGroup0 h
  · cases h; exact formatNNN_eq_iff.2 ⟨hop, rfl⟩
  · cases h; exact formatNNN_eq_iff.2 ⟨hop, rfl⟩
  · cases h; exact formatXKK_eq_iff.2 ⟨hop, rfl, rfl⟩
  · cases h; exact formatXKK_eq_iff.2 ⟨hop, rfl, rfl⟩
  · exact encode_of_decodeGroup5 hop h
  · cases h; exact formatXKK_eq_iff.2 ⟨hop, rfl, rfl⟩
  · cases h; exact formatXKK_eq_iff.2 ⟨hop, rfl, rfl⟩
  · exact encode_of_decodeGroup8 hop h
  · exact encode_of_decodeGroup9 hop h
  · cases h; exact formatNNN_eq_iff.2 ⟨hop, rfl⟩
  · cases h; exact formatNNN_eq_iff.2 ⟨hop, rfl⟩
  · cases h; exact formatXKK_eq_iff.2 ⟨hop, rfl, rfl⟩
  · cases h; exact formatXYN_eq_iff.2 ⟨hop, rfl, rfl, rfl⟩
  · exact encode_of_decodeGroupE hop h
  · exact encode_of_decodeGroupF hop h

/-! ## The words that are not recognised (R52) -/

theorem decodeGroup0_unrecognised {w : Word} : decodeGroup0 w = .error (.unrecognised w) ↔ w ≠ 0x00E0 ∧ w ≠ 0x00EE := by
  unfold decodeGroup0; split_ifs <;> simp_all

theorem decodeGroup5_unrecognised {w : Word} : decodeGroup5 w = .error (.unrecognised w) ↔ fieldN w ≠ 0 := by
  simp [decodeGroup5]

theorem decodeGroup8_unrecognised {w : Word} :
    decodeGroup8 w = .error (.unrecognised w) ↔ fieldN w ∈ [0x8, 0x9, 0xA, 0xB, 0xC, 0xD, 0xF] := by
  unfold decodeGroup8
  generalize fieldN w = n
  fin_cases n <;> simp

theorem decodeGroup9_unrecognised {w : Word} : decodeGroup9 w = .error (.unrecognised w) ↔ fieldN w ≠ 0 := by
  simp [decodeGroup9]

theorem decodeGroupE_unrecognised {w : Word} : decodeGroupE w = .error (.unrecognised w) ↔ fieldKK w ∉ [0x9E, 0xA1] := by
  unfold decodeGroupE; split_ifs <;> simp_all

theorem decodeGroupF_unrecognised {w : Word} :
    decodeGroupF w = .error (.unrecognised w) ↔ fieldKK w ∉ [0x07, 0x0A, 0x15, 0x18, 0x1E, 0x29, 0x33, 0x55, 0x65] := by
  unfold decodeGroupF; split_ifs <;> simp_all

/-- Settles O6: a group's words fail by that group's clause, and no other clause speaks of the group. -/
theorem unrecognisedWordsAreThoseListed : Obligations.UnrecognisedWordsAreThoseListed := by
  intro w
  obtain ⟨op, hop⟩ : ∃ op, fieldOp w = op := ⟨_, rfl⟩
  rw [decodeWord, hop]
  fin_cases op -- the sixteen groups, 0 to F; `simp` alone where a group has no sub-selector
  · simpa using decodeGroup0_unrecognised
  · simp
  · simp
  · simp
  · simp
  · simpa using decodeGroup5_unrecognised
  · simp
  · simp
  · simpa using decodeGroup8_unrecognised
  · simpa using decodeGroup9_unrecognised
  · simp
  · simp
  · simp
  · simp
  · simpa using decodeGroupE_unrecognised
  · simpa using decodeGroupF_unrecognised

/-- The decoder gives an instruction or reports the very word (R50). -/
theorem decodeWord_ok_or_unrecognised (w : Word) :
    (∃ i, decodeWord w = .ok i) ∨ decodeWord w = .error (.unrecognised w) := by
  unfold decodeWord decodeGroup0 decodeGroup5 decodeGroup8 decodeGroup9 decodeGroupE decodeGroupF
  repeat' split
  all_goals simp

/-! ## Rows of the opcode map (R51) -/

theorem selects_iff {r : OpcodeRow} {w : Word} : r.selects w = true ↔ w &&& r.mask = r.value := beq_iff_eq

theorem row_eq_of_number_eq : ∀ r ∈ opcodeMap, ∀ r' ∈ opcodeMap, r.number = r'.number → r = r' := by decide

/-- Two rows' values differ where both masks look. -/
theorem row_eq_of_values_agree :
    ∀ r ∈ opcodeMap, ∀ r' ∈ opcodeMap, r.value &&& r'.mask = r'.value &&& r.mask → r = r' := by decide

theorem row_eq_of_selects {r r' : OpcodeRow} {w : Word} (hr : r ∈ opcodeMap) (hr' : r' ∈ opcodeMap)
    (h : r.selects w = true) (h' : r'.selects w = true) : r = r' := by
  rw [selects_iff] at h h'
  refine row_eq_of_values_agree r hr r' hr' ?_
  rw [← h, ← h', BitVec.and_assoc, BitVec.and_assoc, BitVec.and_comm r.mask]

/-- Every row's mask covers the fields its group dispatches on (R50): `op`, then the whole word, `n` or `kk`. -/
theorem mask_covers_selector : ∀ r ∈ opcodeMap, r.mask.extractLsb' 12 4 = .allOnes 4 ∧
    (fieldOp r.value = 0x0 → r.mask = .allOnes 16) ∧
    (fieldOp r.value ∈ [0x5, 0x8, 0x9] → r.mask.extractLsb' 0 4 = .allOnes 4) ∧
    (fieldOp r.value ∈ [0xE, 0xF] → r.mask.extractLsb' 0 8 = .allOnes 8) := by decide

theorem rowValue_recognised : ∀ r ∈ opcodeMap, decodeWord r.value ≠ .error (.unrecognised r.value) := by decide

/-- Where the mask of a row is all ones, a word it selects has the bits of its value. -/
theorem extractLsb'_of_selects {r : OpcodeRow} {w : Word} {start len : Nat} (h : r.selects w = true)
    (hm : r.mask.extractLsb' start len = .allOnes len) : w.extractLsb' start len = r.value.extractLsb' start len := by
  rw [← selects_iff.1 h, BitVec.extractLsb'_and, hm, BitVec.and_allOnes]

theorem eq_value_of_selects {r : OpcodeRow} {w : Word} (h : r.selects w = true) (hm : r.mask = .allOnes 16) : w = r.value := by
  rw [← selects_iff.1 h, hm, BitVec.and_allOnes]

/-- A word that a row selects falls under no clause of R52, because the row's value does not. -/
theorem recognised_of_selects {r : OpcodeRow} {w : Word} (hr : r ∈ opcodeMap) (h : r.selects w = true) :
    decodeWord w ≠ .error (.unrecognised w) := by
  intro hw
  obtain ⟨hOp, h0, hN, hKK⟩ := mask_covers_selector r hr
  have hop : fieldOp w = fieldOp r.value := congrArg BitVec.toFin (extractLsb'_of_selects h hOp)
  have hn (hm) : fieldN w = fieldN r.value := congrArg BitVec.toFin (extractLsb'_of_selects h hm)
  have hkk (hm) : fieldKK w = fieldKK r.value := extractLsb'_of_selects h hm
  refine rowValue_recognised r hr ((unrecognisedWordsAreThoseListed r.value).2 ?_)
  rw [← hop] at h0 hN hKK ⊢
  obtain ⟨g, c⟩ | ⟨g, c⟩ | ⟨g, c⟩ | ⟨g, c⟩ | ⟨g, c⟩ | ⟨g, c⟩ := (unrecognisedWordsAreThoseListed w).1 hw
  · exact .inl ⟨g, eq_value_of_selects h (h0 g) ▸ c⟩
  · exact .inr (.inl ⟨g, hn (hN (by simp [g])) ▸ c⟩)
  · exact .inr (.inr (.inl ⟨g, hn (hN (by simp [g])) ▸ c⟩))
  · exact .inr (.inr (.inr (.inl ⟨g, hn (hN (by simp [g])) ▸ c⟩)))
  · exact .inr (.inr (.inr (.inr (.inl ⟨g, hkk (hKK (by simp [g])) ▸ c⟩))))
  · exact .inr (.inr (.inr (.inr (.inr ⟨g, hkk (hKK (by simp [g])) ▸ c⟩))))

/-! ## The decoder and the opcode map (R57) -/

theorem encode_selected_by_its_row : ∀ i : Instr, ∃ r ∈ opcodeMap, r.number = rowNumber i ∧ r.selects (encode i) = true
  | .cls => EncodesItsRow.cls
  | .ret => EncodesItsRow.ret
  | .jpNnn nnn => EncodesItsRow.jpNnn nnn
  | .callNnn nnn => EncodesItsRow.callNnn nnn
  | .seVxKk x kk => EncodesItsRow.seVxKk x kk
  | .sneVxKk x kk => EncodesItsRow.sneVxKk x kk
  | .seVxVy x y => EncodesItsRow.seVxVy x y
  | .ldVxKk x kk => EncodesItsRow.ldVxKk x kk
  | .addVxKk x kk => EncodesItsRow.addVxKk x kk
  | .ldVxVy x y => EncodesItsRow.ldVxVy x y
  | .orVxVy x y => EncodesItsRow.orVxVy x y
  | .andVxVy x y => EncodesItsRow.andVxVy x y
  | .xorVxVy x y => EncodesItsRow.xorVxVy x y
  | .addVxVy x y => EncodesItsRow.addVxVy x y
  | .subVxVy x y => EncodesItsRow.subVxVy x y
  | .shrVxVy x y => EncodesItsRow.shrVxVy x y
  | .subnVxVy x y => EncodesItsRow.subnVxVy x y
  | .shlVxVy x y => EncodesItsRow.shlVxVy x y
  | .sneVxVy x y => EncodesItsRow.sneVxVy x y
  | .ldINnn nnn => EncodesItsRow.ldINnn nnn
  | .jpV0Nnn nnn => EncodesItsRow.jpV0Nnn nnn
  | .rndVxKk x kk => EncodesItsRow.rndVxKk x kk
  | .drwVxVyN x y n => EncodesItsRow.drwVxVyN x y n
  | .skpVx x => EncodesItsRow.skpVx x
  | .sknpVx x => EncodesItsRow.sknpVx x
  | .ldVxDt x => EncodesItsRow.ldVxDt x
  | .ldVxK x => EncodesItsRow.ldVxK x
  | .ldDtVx x => EncodesItsRow.ldDtVx x
  | .ldStVx x => EncodesItsRow.ldStVx x
  | .addIVx x => EncodesItsRow.addIVx x
  | .ldFVx x => EncodesItsRow.ldFVx x
  | .ldBVx x => EncodesItsRow.ldBVx x
  | .ldMemVx x => EncodesItsRow.ldMemVx x
  | .ldVxMem x => EncodesItsRow.ldVxMem x

/-- The row that stands for a decoded instruction selects the word, which is that instruction's own (O4). -/
theorem selects_of_decodeWord {w : Word} {i : Instr} (h : decodeWord w = .ok i) :
    ∃ r ∈ opcodeMap, r.number = rowNumber i ∧ r.selects w = true :=
  encodeOfDecodeIsTheWord w i h ▸ encode_selected_by_its_row i

/-- Settles O5: a selected word is recognised, the row of its instruction selects it too, and rows do not overlap. -/
theorem decoderFollowsTheOpcodeMap : Obligations.DecoderFollowsTheOpcodeMap := by
  refine ⟨rfl, fun w r hr => ⟨fun h => ?_, fun ⟨i, hi, hn⟩ => ?_⟩, fun w r r' => row_eq_of_selects⟩
  · obtain ⟨i, hi⟩ := (decodeWord_ok_or_unrecognised w).resolve_right (recognised_of_selects hr h)
    obtain ⟨r', hr', hn, h'⟩ := selects_of_decodeWord hi
    exact ⟨i, hi, row_eq_of_selects hr' hr h' h ▸ hn.symm⟩
  · obtain ⟨r', hr', hn', h'⟩ := selects_of_decodeWord hi
    exact row_eq_of_number_eq r' hr' r hr (hn'.trans hn) ▸ h'

end Sys2Proof.Proofs

namespace Sys2Proof.Proofs

open Sys2Proof.Machine Sys2Proof.Laws

/-!
SUPPORT. Proofs of the statements about the `Cycle` command (spec/40_cycle_and_dispatch.md): what it answers in each of its four
cases, that every step answers a state, and that nothing else comes of a `Cycle`.
-/

/-! ## What a `Cycle` answers, case by case (R60, R61, R62, R64) -/

theorem gated_eq_true {s : State} : s.gated = true ↔ s.run = false ∨ s.err ≠ .none ∨ s.wait = true := by
  rw [← Bool.not_eq_false, gated_eq_false, not_and_or, not_and_or, Bool.not_eq_true, Bool.not_eq_false]

theorem cycle_of_gated {s : State} (hg : s.gated = true) : cycle s = .next s := if_pos hg

theorem cycle_of_pc_gt {s : State} (hg : s.gated = false) (hpc : 4094 < s.pc.toNat) :
    cycle s = .next (s.setErr .fetchAddressError) := by
  simp [cycle, hg, hpc, raise]

theorem cycle_of_decoded {s : State} {i : Instr} (hg : s.gated = false) (hpc : s.pc.toNat ≤ 4094)
    (hi : decodeWord s.fetchWord = .ok i) : cycle s = exec i s := by
  simp [cycle, hg, hpc, hi]

theorem cycle_of_unrecognised {s : State} {e : DecodeError} (hg : s.gated = false) (hpc : s.pc.toNat ≤ 4094)
    (he : decodeWord s.fetchWord = .error e) : cycle s = .next (unrecognised s.fetchWord s) := by
  simp [cycle, hg, hpc, he]

/-- An instruction read from exactly two bytes is that of the word they make (R46). -/
theorem decodeWord_of_decode {b0 b1 : Byte} {i : Instr} (h : decode [b0, b1] = .ok (i, [])) :
    decodeWord (wordOfBytes b0 b1) = .ok i := by
  cases hw : decodeWord (wordOfBytes b0 b1) <;> simp_all [decode]

/-- The decoder's one complaint about a word is that it does not recognise that word (R52). -/
theorem eq_unrecognised_of_decodeWord {w : Word} {e : DecodeError} (h : decodeWord w = .error e) : e = .unrecognised w := by
  obtain ⟨i, hi⟩ | hw := decodeWord_ok_or_unrecognised w
  · cases hi.symm.trans h
  · cases hw.symm.trans h; rfl

/-! ## Steps that are a `Cycle` -/

/-- Settles O7: the queue is no part of what the gates, the fetch and the decoder read. -/
theorem stepRunsTheDecodedInstruction : Obligations.StepRunsTheDecodedInstruction := by
  intro s i hrun herr hwait hpc hdec
  have hg : s.gated = false := gated_eq_false.2 ⟨hrun, herr, hwait⟩
  have hi : decodeWord s.fetchWord = .ok i := decodeWord_of_decode hdec
  refine ⟨fun hp => ?_, fun rest hp => ?_⟩
  · exact (step_idle hp).trans (cycle_of_decoded hg hpc hi)
  · exact (step_pending hp).trans (cycle_of_decoded (s := { s with pending := rest }) hg hpc hi)

/-- Settles O8: `unrecognised` writes the report and `pc`, and nothing else. -/
theorem unrecognisedWordIsAReportedNoOp : Obligations.UnrecognisedWordIsAReportedNoOp := by
  rintro s w hrun herr hwait hpc hp rfl hw
  have hg : s.gated = false := gated_eq_false.2 ⟨hrun, herr, hwait⟩
  exact ⟨unrecognised s.fetchWord s, (step_idle hp).trans (cycle_of_unrecognised hg hpc hw), rfl, rfl,
    sameBut_mono (unrecognised_sameBut _ s) (by decide)⟩

/-- Settles O9: each of the three gates makes the `Cycle` idle, also once the command is taken off the queue. -/
theorem gatedCycleChangesNothing : Obligations.GatedCycleChangesNothing := by
  intro s h
  have hg : s.gated = true := gated_eq_true.2 h
  refine ⟨fun hp => ?_, fun rest hp => ?_⟩
  · exact (step_idle hp).trans (cycle_of_gated hg)
  · exact (step_pending hp).trans (cycle_of_gated (s := { s with pending := rest }) hg)

/-- Settles O10: the fetch is refused before anything is read or decoded. -/
theorem fetchBeyondMemoryRaises : Obligations.FetchBeyondMemoryRaises := by
  intro s hrun herr hwait hpc hp
  have hg : s.gated = false := gated_eq_false.2 ⟨hrun, herr, hwait⟩
  exact ⟨_, (step_idle hp).trans (cycle_of_pc_gt hg hpc), rfl, setErr_sameBut s _⟩

/-! ## Every step answers a state (R66, R137) -/

/-- An instruction raises or completes, and either is a next state. -/
theorem exec_next (i : Instr) (s : State) : ∃ t, exec i s = .next t := by
  by_cases hr : raiseCode i s = .none
  · obtain ⟨t, ht, -⟩ := exec_completes hr
    exact ⟨t, ht⟩
  · exact ⟨_, exec_of_raiseCode hr⟩

theorem cycle_next (s : State) : ∃ t, cycle s = .next t := by
  cases hg : s.gated with
  | true => exact ⟨s, cycle_of_gated hg⟩
  | false =>
    obtain hpc | hpc := Nat.lt_or_ge 4094 s.pc.toNat
    · exact ⟨_, cycle_of_pc_gt hg hpc⟩
    · cases hw : decodeWord s.fetchWord with
      | ok i => exact cycle_of_decoded hg hpc hw ▸ exec_next i s
      | error e => exact ⟨_, cycle_of_unrecognised hg hpc hw⟩

theorem perform_next (c : Command) (s : State) : ∃ t, perform c s = .next t := by
  cases c with
  | cycle => exact cycle_next s
  | tick | render | setKey | load | reset => exact ⟨_, rfl⟩

/-- Settles O11: a step is a `Cycle` or performs a pending command, and both answer a state. -/
theorem everyStepGivesANextState : Obligations.EveryStepGivesANextState := by
  intro s
  cases hp : s.pending with
  | nil => exact step_idle hp ▸ cycle_next s
  | cons c rest => exact step_pending hp ▸ perform_next c _

/-! ## The closed list of outcomes (R66) -/

/-- An instruction that completes leaves `ERR` alone. -/
theorem Completed.err_eq {i : Instr} {s t : State} (hc : Completed i s t) : t.err = s.err :=
  hc.frame .err fun hm => not_mem_writes i .err hm (by simp)

/-- An instruction that runs outside a wait leaves one on exactly when it is `Fx0A` (R117). -/
theorem exec_wait_iff {i : Instr} {s t : State} (h : exec i s = .next t) (hs : s.wait = false) :
    t.wait = true ↔ ∃ x, i = .ldVxK x := by
  constructor
  · intro ht
    by_contra hi
    have hkeep : t.wait = s.wait := exec_keeps_wait h fun x hx => hi ⟨x, hx⟩
    simp [ht, hs] at hkeep
  · rintro ⟨x, rfl⟩
    cases h; rfl

/-- Settles O12: the four cases of a `Cycle`, the third split into an instruction that raises and one that completes. -/
theorem cycleHasOneOfTheListedOutcomes : Obligations.CycleHasOneOfTheListedOutcomes := by
  intro s t h
  obtain ⟨hg, rfl⟩ | ⟨hg, -, rfl⟩ | ⟨i, hg, -, hi, hx⟩ | ⟨e, hg, -, he, rfl⟩ := cycle_cases h
  case inl => exact .inl ⟨rfl, gated_eq_true.1 hg⟩
  all_goals
    obtain ⟨hrun, herr, hwait⟩ := gated_eq_false.1 hg
    refine .inr ⟨hrun, herr, hwait, ?_⟩
  · exact .inr (.inr ⟨by simp, setErr_sameBut s _⟩)
  · obtain ⟨hr, rfl⟩ | ⟨-, hc⟩ := exec_cases hx
    · exact .inr (.inr ⟨hr, setErr_sameBut s _⟩)
    · exact .inl ⟨i, hi, hx, hc.err_eq.trans herr, hc.frame, exec_wait_iff hx hwait⟩
  · obtain rfl := eq_unrecognised_of_decodeWord he
    exact .inr (.inl ⟨he, rfl, rfl, sameBut_mono (unrecognised_sameBut _ s) (by decide)⟩)

end Sys2Proof.Proofs

namespace Sys2Proof.Proofs

open Sys2Proof.Machine Sys2Proof.Laws

/-!
SUPPORT. Proofs of the statements about control transfer (spec/41_control_flow.md): jumps, the call and its return, and the four
skips that compare registers.
-/

/-! ## Jump targets as numbers (R72, R73) -/

theorem zextAddr_toNat (nnn : Addr) : (zextAddr nnn).toNat = nnn.toNat :=
  BitVec.toNat_setWidth_of_le (by decide)

theorem zextByte_toNat (u : Byte) : (zextByte u).toNat = u.toNat :=
  BitVec.toNat_setWidth_of_le (by decide)

/-- An address plus a byte stays below 65536, so the 16-bit sum is the integer sum (R73). -/
theorem zextAddr_add_zextByte_toNat (nnn : Addr) (u : Byte) :
    (zextAddr nnn + zextByte u).toNat = nnn.toNat + u.toNat := by
  have hsum : nnn.toNat + u.toNat < 2 ^ 16 := by omega
  rw [BitVec.toNat_add, zextAddr_toNat, zextByte_toNat, Nat.mod_eq_of_lt hsum]

/-- Settles O23: the encoder's format and the decoder's round trip; the jump is one write of `pc`. -/
theorem jumpSetsPcToItsAddress : Obligations.JumpSetsPcToItsAddress := by
  intro nnn s
  exact ⟨formatNNN_toNat 0x1 nnn, decodeWord_encode _, _, rfl, zextAddr_toNat nnn, setPc_sameBut s _⟩

/-- Settles O24: as the plain jump, with a target that cannot overflow. -/
theorem offsetJumpAddsRegisterZero : Obligations.OffsetJumpAddsRegisterZero := by
  intro nnn s
  exact ⟨formatNNN_toNat 0xB nnn, decodeWord_encode _, _, rfl, zextAddr_add_zextByte_toNat nnn (s.reg 0), setPc_sameBut s _⟩

/-! ## Call and return (R71, R74) -/

/-- Outside R130's conditions, what an instruction answers keeps every part but those the instruction writes. -/
theorem exec_sameBut_writes {i : Instr} {s t : State} (hr : raiseCode i s = .none) (h : exec i s = .next t) :
    SameBut (writes i) s t := by
  obtain ⟨hne, -⟩ | ⟨-, hc⟩ := exec_cases h
  · exact absurd hr hne
  · exact hc.frame

/-- Settles O25: one write of the stack at the old depth. -/
theorem callPushesItsOwnAddress : Obligations.CallPushesItsOwnAddress := by
  intro nnn s top hsp
  have hlt : s.sp.val < 16 := hsp ▸ top.isLt
  have hexec := execCallNnn_of_lt nnn hlt
  refine ⟨_, hexec, zextAddr_toNat nnn, rfl, ?_, fun k hk => ?_, ?_⟩
  · simp [hsp]
  · have hne : s.sp.val ≠ k.val := fun he => hk (Fin.ext (he.symm.trans hsp))
    exact Vector.getElem_set_ne hlt k.isLt hne
  · exact sameBut_mono (exec_sameBut_writes (raiseCode_callNnn.2 hlt) hexec) (by simp [writes])

/-- Settles O26: the return reads the entry below the old depth and writes neither it nor any other. -/
theorem returnGoesPastTheMatchingCall : Obligations.ReturnGoesPastTheMatchingCall := by
  intro s top hsp
  have hpos : 0 < s.sp.val := by omega
  have htop : s.sp.val - 1 = top.val := by omega
  have hexec := execRet_of_pos hpos
  refine ⟨_, hexec, htop, ?_, sameBut_mono (exec_sameBut_writes (raiseCode_ret.2 hpos) hexec) (by simp [writes])⟩
  simp only [htop, stack_getD s top.isLt]

/-- Settles O28: the entry the return pops is the one the call pushed, and those below it are the caller's. -/
theorem returnResumesAfterTheCall : Obligations.ReturnResumesAfterTheCall := by
  intro nnn s t u hlt hcall husp hlive
  obtain ⟨top, hsp⟩ : ∃ top : Fin 16, s.sp.val = top.val := ⟨⟨s.sp.val, hlt⟩, rfl⟩
  obtain ⟨t', ht', -, htsp, hpushed, hothers, -⟩ := callPushesItsOwnAddress nnn s top hsp
  obtain rfl : t' = t := by cases ht'.symm.trans hcall; rfl
  obtain ⟨r, hret, hrsp, hrpc, hframe⟩ := returnGoesPastTheMatchingCall u top (by rw [husp, htsp, hsp])
  refine ⟨r, hret, ?_, Fin.ext (hrsp.trans hsp.symm), fun k hk => ?_⟩
  · rw [hrpc, hlive top (by omega), hpushed]
  · have hne : k ≠ top := Fin.ne_of_val_ne (by omega)
    rw [hframe .stack (by decide) k, hlive k (by omega), hothers k hne]

/-! ## Skips that compare two bytes (R75 to R78) -/

theorem skipIf_beq_pc (s : State) (a b : Byte) :
    (a.toNat = b.toNat → (s.skipIf (a == b)).pc = s.pc + 4) ∧ (a.toNat ≠ b.toNat → (s.skipIf (a == b)).pc = s.pc + 2) := by
  rw [Ne, BitVec.toNat_inj]
  exact ⟨fun h => by simp [h], fun h => by simp [h]⟩

theorem skipIf_bne_pc (s : State) (a b : Byte) :
    (a.toNat ≠ b.toNat → (s.skipIf (a != b)).pc = s.pc + 4) ∧ (a.toNat = b.toNat → (s.skipIf (a != b)).pc = s.pc + 2) := by
  rw [Ne, BitVec.toNat_inj]
  exact ⟨fun h => by simp [h], fun h => by simp [h]⟩

/-- Settles O29: each word is its format's number, and each instruction is one skip on its comparison. -/
theorem immediateSkipsCompareRegisterAndImmediate : Obligations.ImmediateSkipsCompareRegisterAndImmediate := by
  intro x kk s
  refine ⟨formatXKK_toNat 0x3 x kk, formatXKK_toNat 0x4 x kk, ?_, ?_⟩
  · exact ⟨_, rfl, skipIf_sameBut s _, skipIf_beq_pc s (s.reg x) kk⟩
  · exact ⟨_, rfl, skipIf_sameBut s _, skipIf_bne_pc s (s.reg x) kk⟩

/-- Settles O30: as the immediate skips; the words with another last nibble are among those R52 lists for groups 5 and 9. -/
theorem registerSkipsCompareTwoRegisters : Obligations.RegisterSkipsCompareTwoRegisters := by
  intro x y s
  refine ⟨formatXYN_toNat 0x5 x y 0x0, formatXYN_toNat 0x9 x y 0x0, fun n hn => ⟨?_, ?_⟩, ?_, ?_⟩
  · exact (unrecognisedWordsAreThoseListed _).2 (.inr (.inl (by simpa using hn)))
  · exact (unrecognisedWordsAreThoseListed _).2 (.inr (.inr (.inr (.inl (by simpa using hn)))))
  · exact ⟨_, rfl, skipIf_sameBut s _, skipIf_beq_pc s (s.reg x) (s.reg y)⟩
  · exact ⟨_, rfl, skipIf_sameBut s _, skipIf_bne_pc s (s.reg x) (s.reg y)⟩

end Sys2Proof.Proofs

namespace Sys2Proof.Proofs

open Sys2Proof.Machine Sys2Proof.Laws

/-!
SUPPORT. Proofs of the statements about the register file (spec/42_alu.md): loads, sums, logic, differences, shifts and the
random byte, with the aliasing cases of D9.
-/

/-! ## What register writes and `pc + 2` leave alone -/

theorem regsSameBut_refl (xs : List Nibble) (s : State) : RegsSameBut xs s s := fun _ _ => rfl

/-- One more write to a listed register leaves the others as they are. -/
theorem regsSameBut_setReg {xs : List Nibble} {s t : State} (h : RegsSameBut xs s t) {x : Nibble} (hx : x ∈ xs) (u : Byte) :
    RegsSameBut xs s (t.setReg x u) := by
  intro z hz
  have hne : x ≠ z := fun e => hz (e ▸ hx)
  exact (setReg_reg_other t u hne).trans (h z hz)

theorem setReg_advance_frame (s : State) (x : Nibble) (u : Byte) :
    RegsSameBut [x] s (s.setReg x u).advance ∧ (s.setReg x u).advance.pc = s.pc + 2 ∧
      SameBut [.v, .pc] s (s.setReg x u).advance :=
  ⟨regsSameBut_setReg (regsSameBut_refl _ s) (by simp) u, rfl, setReg_advance_sameBut s x u⟩

/-- Two register writes and `pc + 2`, the listed registers in either order. -/
theorem setReg_setReg_advance_frame {xs : List Nibble} {x y : Nibble} (hx : x ∈ xs) (hy : y ∈ xs) (s : State) (u w : Byte) :
    RegsSameBut xs s ((s.setReg x u).setReg y w).advance ∧ ((s.setReg x u).setReg y w).advance.pc = s.pc + 2 ∧
      SameBut [.v, .pc] s ((s.setReg x u).setReg y w).advance :=
  ⟨regsSameBut_setReg (regsSameBut_setReg (regsSameBut_refl _ s) hx u) hy w, rfl, setReg_setReg_advance_sameBut s x y u w⟩

/-! ## Reading after the flag's write -/

theorem setVF_reg_flag (s : State) (u : Byte) : (s.setVF u).reg 15 = u := setReg_reg_same s 15 u

theorem setVF_reg_other (s : State) (u : Byte) {y : Nibble} (h : y ≠ 15) : (s.setVF u).reg y = s.reg y :=
  setReg_reg_other s u h.symm

/-! ## One register written, no flag (R81 to R83) -/

/-- Settles O31: each word is its format's number, and each instruction is one register write and `pc + 2`. -/
theorem loadAddCopyWriteOneRegister : Obligations.LoadAddCopyWriteOneRegister := by
  intro x y kk s
  refine ⟨formatXKK_toNat 0x6 x kk, formatXKK_toNat 0x7 x kk, formatXYN_toNat 0x8 x y 0x0, ?_, ?_, ?_⟩
  · exact ⟨_, rfl, setReg_reg_same s x kk, setReg_advance_frame s x _⟩
  · have hsum : ((s.setReg x (s.reg x + kk)).reg x).toNat = ((s.reg x).toNat + kk.toNat) % 256 := by
      rw [setReg_reg_same, BitVec.toNat_add]
    exact ⟨_, rfl, hsum, setReg_advance_frame s x _⟩
  · exact ⟨_, rfl, setReg_reg_same s x _, setReg_advance_frame s x _⟩

/-- Settles O38: one masked write, after the draw counter has moved on. -/
theorem randomByteIsMasked : Obligations.RandomByteIsMasked := by
  intro x kk s
  have hbits (b : Nat) : ((s.setReg x (Config.randomByte s.draws &&& kk)).reg x).getLsbD b =
      ((Config.randomByte s.draws).getLsbD b && kk.getLsbD b) := by
    rw [setReg_reg_same, BitVec.getLsbD_and]
  obtain ⟨hregs, hpc, -⟩ := setReg_advance_frame { s with draws := s.draws + 1 } x (Config.randomByte s.draws &&& kk)
  exact ⟨_, rfl, hbits, rfl, hregs, hpc, exec_sameBut_writes (i := .rndVxKk x kk) rfl rfl⟩

/-! ## The result written first, then the flag (R84 to R87) -/

/-- `u` into `V[x]`, then `f` into `VF`, then `pc + 2`: with `x = F` only the flag is left (D9). -/
theorem setReg_setVF_advance_reg (s : State) (x : Nibble) (u f : Byte) :
    (x ≠ 15 → ((s.setReg x u).setVF f).advance.reg x = u) ∧ ((s.setReg x u).setVF f).advance.reg 15 = f :=
  ⟨fun hx => (setVF_reg_other _ f hx).trans (setReg_reg_same s x u), setVF_reg_flag _ f⟩

theorem setReg_setVF_advance_frame (s : State) (x : Nibble) (u f : Byte) :
    RegsSameBut [x, 15] s ((s.setReg x u).setVF f).advance ∧ ((s.setReg x u).setVF f).advance.pc = s.pc + 2 ∧
      SameBut [.v, .pc] s ((s.setReg x u).setVF f).advance :=
  setReg_setReg_advance_frame (by simp) (by simp) s u f

/-- Settles O32: the three differ in the byte they write before the flag. -/
theorem logicOperationsClearTheFlag : Obligations.LogicOperationsClearTheFlag := by
  intro x y s
  refine ⟨?_, ?_, ?_⟩
  · obtain ⟨hx, hvf⟩ := setReg_setVF_advance_reg s x (s.reg x ||| s.reg y) 0
    refine ⟨_, rfl, fun hne b => ?_, hvf, setReg_setVF_advance_frame s x _ _⟩
    rw [hx hne, BitVec.getLsbD_or]
  · obtain ⟨hx, hvf⟩ := setReg_setVF_advance_reg s x (s.reg x &&& s.reg y) 0
    refine ⟨_, rfl, fun hne b => ?_, hvf, setReg_setVF_advance_frame s x _ _⟩
    rw [hx hne, BitVec.getLsbD_and]
  · obtain ⟨hx, hvf⟩ := setReg_setVF_advance_reg s x (s.reg x ^^^ s.reg y) 0
    refine ⟨_, rfl, fun hne b => ?_, hvf, setReg_setVF_advance_frame s x _ _⟩
    rw [hx hne, BitVec.getLsbD_xor]

theorem carry_of_gt {a b : Byte} (h : 255 < a.toNat + b.toNat) : carry a b = 1 := by simp [carry, flag, h]

theorem carry_of_le {a b : Byte} (h : a.toNat + b.toNat ≤ 255) : carry a b = 0 := by simp [carry, flag, h]

/-- Settles O33: the sum is written before the carry of the old operands. -/
theorem addRegistersSetsTheCarry : Obligations.AddRegistersSetsTheCarry := by
  intro x y s
  obtain ⟨hx, hvf⟩ := setReg_setVF_advance_reg s x (s.reg x + s.reg y) (carry (s.reg x) (s.reg y))
  refine ⟨_, rfl, fun hne => ?_, fun h => hvf.trans (carry_of_gt h), fun h => hvf.trans (carry_of_le h),
    setReg_setVF_advance_frame s x _ _⟩
  rw [hx hne, BitVec.toNat_add]

/-! ## The flag written first, then the difference (R88, R90) -/

theorem greater_toNat (a b : Byte) : (greater a b).toNat = greaterNat a b := by
  by_cases h : b.toNat < a.toNat <;> simp [greater, flag, greaterNat, h]

theorem byte_sub_toNat (a b : Byte) : (a - b).toNat = minusMod a.toNat b.toNat := by
  rw [BitVec.toNat_sub, minusMod]
  omega

theorem minusMod_self (a : Nat) : minusMod a a = 0 := by simp [minusMod]

/-- `V[a] > V[b]` into `VF`, then `V[a] - V[b]` into `V[x]`: `8xy5` has `a, b = x, y`, and `8xy7` has `a, b = y, x`. -/
def flagThenDifference (x a b : Nibble) (s : State) : State :=
  subtractInto x a b (s.setVF (greater (s.reg a) (s.reg b)))

theorem execSubVxVy_eq (x y : Nibble) (s : State) : execSubVxVy x y s = .next (flagThenDifference x x y s).advance := rfl

theorem execSubnVxVy_eq (x y : Nibble) (s : State) : execSubnVxVy x y s = .next (flagThenDifference x y x s).advance := rfl

/-- The difference is that of the registers as the flag's write left them (R80(d)). -/
theorem flagThenDifference_reg (x a b : Nibble) (s : State) :
    ((flagThenDifference x a b s).reg x).toNat =
      minusMod ((s.setVF (greater (s.reg a) (s.reg b))).reg a).toNat ((s.setVF (greater (s.reg a) (s.reg b))).reg b).toNat := by
  rw [flagThenDifference, subtractInto, setReg_reg_same, byte_sub_toNat]

theorem flagThenDifference_flag {x : Nibble} (hx : x ≠ 15) (a b : Nibble) (s : State) :
    ((flagThenDifference x a b s).reg 15).toNat = greaterNat (s.reg a) (s.reg b) := by
  rw [flagThenDifference, subtractInto, setReg_reg_other _ _ hx, setVF_reg_flag, greater_toNat]

theorem flagThenDifference_advance_frame (x a b : Nibble) (s : State) :
    RegsSameBut [x, 15] s (flagThenDifference x a b s).advance ∧ (flagThenDifference x a b s).advance.pc = s.pc + 2 ∧
      SameBut [.v, .pc] s (flagThenDifference x a b s).advance :=
  setReg_setReg_advance_frame (x := 15) (y := x) (by simp) (by simp) s _ _

/-- The aliasing cases of R88 and R90: an operand that is `VF` is read as the new flag (D9). -/
theorem flagThenDifference_reg_cases (x a b : Nibble) (s : State) :
    (a ≠ 15 → b ≠ 15 → ((flagThenDifference x a b s).reg x).toNat = minusMod (s.reg a).toNat (s.reg b).toNat) ∧
    (a = 15 → b ≠ 15 →
      ((flagThenDifference x a b s).reg x).toNat = minusMod (greaterNat (s.reg 15) (s.reg b)) (s.reg b).toNat) ∧
    (a ≠ 15 → b = 15 →
      ((flagThenDifference x a b s).reg x).toNat = minusMod (s.reg a).toNat (greaterNat (s.reg a) (s.reg 15))) ∧
    (a = 15 → b = 15 → ((flagThenDifference x a b s).reg x).toNat = 0) := by
  rw [flagThenDifference_reg]
  refine ⟨fun ha hb => ?_, ?_, ?_, ?_⟩
  · rw [setVF_reg_other _ _ ha, setVF_reg_other _ _ hb]
  · rintro rfl hb
    rw [setVF_reg_flag, greater_toNat, setVF_reg_other _ _ hb]
  · rintro ha rfl
    rw [setVF_reg_flag, greater_toNat, setVF_reg_other _ _ ha]
  · rintro rfl rfl
    exact minusMod_self _

/-- Settles O34: the minuend is `V[x]` and the subtrahend `V[y]`. -/
theorem subtractByAliasingCase : Obligations.SubtractByAliasingCase := by
  intro x y s
  obtain ⟨hneither, hminuend, hsubtrahend, hboth⟩ := flagThenDifference_reg_cases x x y s
  refine ⟨_, execSubVxVy_eq x y s, fun hx hy => ⟨flagThenDifference_flag hx x y s, hneither hx hy⟩, ?_, ?_, ?_,
    flagThenDifference_advance_frame x x y s⟩
  · rintro rfl hy
    exact hminuend rfl hy
  · rintro hx rfl
    exact ⟨flagThenDifference_flag hx x 15 s, hsubtrahend hx rfl⟩
  · rintro rfl hy
    exact hboth rfl hy

/-- Settles O35: the minuend is `V[y]` and the subtrahend `V[x]`. -/
theorem reverseSubtractByAliasingCase : Obligations.ReverseSubtractByAliasingCase := by
  intro x y s
  obtain ⟨hneither, hminuend, hsubtrahend, hboth⟩ := flagThenDifference_reg_cases x y x s
  refine ⟨_, execSubnVxVy_eq x y s, fun hx hy => ⟨flagThenDifference_flag hx y x s, hneither hy hx⟩, ?_, ?_, ?_,
    flagThenDifference_advance_frame x y x s⟩
  · rintro rfl hy
    exact hsubtrahend hy rfl
  · rintro hx rfl
    exact ⟨flagThenDifference_flag hx 15 x s, hminuend rfl hx⟩
  · rintro rfl hy
    exact hboth hy rfl

/-! ## Copy, flag, shift (R89, R91) -/

/-- With `x` not F, the copy is what the flag and the shift read. -/
theorem copyFlagShift_reg_of_ne (out shift : Byte → Byte) {x : Nibble} (hx : x ≠ 15) (y : Nibble) (s : State) :
    (copyFlagShift out shift x y s).reg x = shift (s.reg y) ∧ (copyFlagShift out shift x y s).reg 15 = out (s.reg y) := by
  constructor
  · rw [copyFlagShift, setReg_reg_same, setVF_reg_other _ _ hx, setReg_reg_same]
  · rw [copyFlagShift, setReg_reg_other _ _ hx, setVF_reg_flag, setReg_reg_same]

/-- With `x = F` the flag overwrites the copy, and the shift is the flag's (D9). -/
theorem copyFlagShift_reg_flag (out shift : Byte → Byte) (y : Nibble) (s : State) :
    (copyFlagShift out shift 15 y s).reg 15 = shift (out (s.reg y)) := by
  rw [copyFlagShift, setReg_reg_same, setVF_reg_flag, setReg_reg_same]

theorem copyFlagShift_advance_frame (out shift : Byte → Byte) (x y : Nibble) (s : State) :
    RegsSameBut [x, 15] s (copyFlagShift out shift x y s).advance ∧ (copyFlagShift out shift x y s).advance.pc = s.pc + 2 ∧
      SameBut [.v, .pc] s (copyFlagShift out shift x y s).advance := by
  obtain ⟨hregs, -, -⟩ := setReg_setVF_advance_frame s x (s.reg y) (out ((s.setReg x (s.reg y)).reg x))
  exact ⟨regsSameBut_setReg hregs (by simp) _, rfl,
    sameBut_append (copyFlagShift_sameBut out shift x y s) (advance_sameBut _)⟩

theorem lowBit_toNat (u : Byte) : (lowBit u).toNat = u.toNat % 2 := by
  simp [lowBit, Nat.and_one_is_mod]

theorem topBit_toNat (u : Byte) : (topBit u).toNat = u.toNat / 128 := by
  have hlt : u.toNat / 128 < 2 := by omega
  simp [topBit, Nat.and_one_is_mod, Nat.shiftRight_eq_div_pow, Nat.mod_eq_of_lt hlt]

theorem byte_shr_one_toNat (u : Byte) : (u >>> 1).toNat = u.toNat / 2 := by
  simp [Nat.shiftRight_eq_div_pow]

theorem byte_shl_one_toNat (u : Byte) : (u <<< 1).toNat = u.toNat * 2 % 256 := by
  simp [Nat.shiftLeft_eq]

/-- Settles O36: with `x = F` the shift moves the flag's only bit out. -/
theorem shiftRightByAliasingCase : Obligations.ShiftRightByAliasingCase := by
  intro x y s
  refine ⟨_, rfl, fun hx => ?_, ?_, copyFlagShift_advance_frame _ _ x y s⟩
  · obtain ⟨hres, hvf⟩ := copyFlagShift_reg_of_ne lowBit (fun u => u >>> 1) hx y s
    simp only [advance_reg, hres, hvf, byte_shr_one_toNat, lowBit_toNat, and_self]
  · rintro rfl
    apply BitVec.eq_of_toNat_eq
    rw [advance_reg, copyFlagShift_reg_flag, byte_shr_one_toNat, lowBit_toNat]
    exact Nat.div_eq_of_lt (Nat.mod_lt _ (by decide))

/-- Settles O37: with `x = F` the shift doubles the flag. -/
theorem shiftLeftByAliasingCase : Obligations.ShiftLeftByAliasingCase := by
  intro x y s
  refine ⟨_, rfl, fun hx => ?_, ?_, copyFlagShift_advance_frame _ _ x y s⟩
  · obtain ⟨hres, hvf⟩ := copyFlagShift_reg_of_ne topBit (fun u => u <<< 1) hx y s
    simp only [advance_reg, hres, hvf, byte_shl_one_toNat, topBit_toNat, and_self]
  · rintro rfl
    rw [advance_reg, copyFlagShift_reg_flag, byte_shl_one_toNat, topBit_toNat]
    omega

end Sys2Proof.Proofs

namespace Sys2Proof.Proofs

open Sys2Proof.Machine Sys2Proof.Laws

/-!
SUPPORT. Proofs of the statements about the index register and memory (spec/43_index_and_memory.md): the three writes of `I`,
decimal digits, and the register runs stored to and loaded from memory.
-/

/-! ## One write of `I`, then `pc + 2` (R95 to R97) -/

/-- The 16-bit sum of `I` and a byte (R96, D20). -/
theorem add_zextByte_toNat (i : Word) (u : Byte) : (i + zextByte u).toNat = (i.toNat + u.toNat) % 65536 := by
  rw [BitVec.toNat_add, zextByte_toNat]

/-- Settles O40: each is one write of `I`; the sum is taken modulo 65536 and the product never wraps. -/
theorem indexArithmetic : Obligations.IndexArithmetic := by
  intro x s
  constructor
  · exact ⟨_, rfl, add_zextByte_toNat s.idx (s.reg x), rfl, setIdx_advance_sameBut s _⟩
  · exact ⟨_, rfl, zextByte_mul_five_toNat (s.reg x), rfl, setIdx_advance_sameBut s _⟩

/-- Settles O39: the encoder's format and the decoder's round trip; the instruction is one write of `I`. -/
theorem loadIndexTakesTheAddress : Obligations.LoadIndexTakesTheAddress := by
  intro nnn s
  exact ⟨formatNNN_toNat 0xA nnn, decodeWord_encode _, _, rfl, zextAddr_toNat nnn, rfl, setIdx_advance_sameBut s _⟩

/-! ## Decimal digits (R98) -/

theorem hundreds_toNat (u : Byte) : (hundreds u).toNat = u.toNat / 100 := by
  rw [hundreds, BitVec.toNat_ofNat]; omega

theorem tens_toNat (u : Byte) : (tens u).toNat = u.toNat / 10 % 10 := by
  rw [tens, BitVec.toNat_ofNat]; omega

theorem units_toNat (u : Byte) : (units u).toNat = u.toNat % 10 := by
  rw [units, BitVec.toNat_ofNat]; omega

theorem setByte_byteAt (s : State) (a : Nat) (u : Byte) (b : Nat) :
    (s.setByte a u).byteAt b = if b = a ∧ a < 4096 then u else s.byteAt b :=
  read_write s.mem a b u

/-- What a completed `Fx33` stores, before `pc` moves on. -/
def digitsStored (x : Nibble) (s : State) : State :=
  ((s.setByte (s.ea 0) (hundreds (s.reg x))).setByte (s.ea 1) (tens (s.reg x))).setByte (s.ea 2) (units (s.reg x))

theorem execLdBVx_of_le {x : Nibble} {s : State} (h : s.ea 2 ≤ 4095) :
    execLdBVx x s = .next (digitsStored x s).advance :=
  checked_of_le s _ h

theorem digitsStored_byteAt {s : State} (x : Nibble) (h : s.ea 2 ≤ 4095) (a : Nat) :
    (digitsStored x s).byteAt a =
      if a = s.ea 2 then units (s.reg x)
      else if a = s.ea 1 then tens (s.reg x)
      else if a = s.ea 0 then hundreds (s.reg x)
      else s.byteAt a := by
  have h2 : s.ea 2 < 4096 := by omega
  have h1 : s.ea 1 < 4096 := by simp only [State.ea] at h ⊢; omega
  have h0 : s.ea 0 < 4096 := by simp only [State.ea] at h ⊢; omega
  simp only [digitsStored, setByte_byteAt, h2, h1, h0, and_true]

/-- Settles O41: three writes at different addresses, of the digits of one number. -/
theorem decimalDigitsAreStored : Obligations.DecimalDigitsAreStored := by
  intro x s h
  have hread := digitsStored_byteAt x h
  have hhundreds : ((digitsStored x s).advance.byteAt (s.ea 0)).toNat = (s.reg x).toNat / 100 := by
    simp [hread, State.ea, hundreds_toNat]
  have htens : ((digitsStored x s).advance.byteAt (s.ea 1)).toNat = (s.reg x).toNat / 10 % 10 := by
    simp [hread, State.ea, tens_toNat]
  have hunits : ((digitsStored x s).advance.byteAt (s.ea 2)).toNat = (s.reg x).toNat % 10 := by
    simp [hread, units_toNat]
  refine ⟨_, execLdBVx_of_le h, ?_, ?_, ?_, ?_, fun a h0 h1 h2 => ?_, rfl, setThreeBytes_advance_sameBut s _ _ _ _ _ _⟩
  · omega
  · omega
  · omega
  · omega
  · rw [advance_byteAt, hread, if_neg h2, if_neg h1, if_neg h0]

/-! ## Register runs (R99 to R101) -/

/-- How both `Fx55` and `Fx65` end, once the run has left `I` and `pc` alone: `I` past the run, `pc + 2`. -/
theorem bumpIdx_advance_frame {ps : List Part} {s t : State} {x : Nibble} (h : s.idx.toNat + x.val ≤ 4095)
    (hf : SameBut ps s t) (hidx : .idx ∉ ps) (hpc : .pc ∉ ps) :
    (bumpIdx x t).advance.idx.toNat = s.idx.toNat + x.val + 1 ∧ (bumpIdx x t).advance.pc = s.pc + 2 ∧
      SameBut (ps ++ [.idx, .pc]) s (bumpIdx x t).advance := by
  have ht : t.idx = s.idx := hf .idx hidx
  refine ⟨?_, congrArg (· + 2) (hf .pc hpc), sameBut_append hf (setIdx_advance_sameBut t _)⟩
  rw [advance_idx, bumpIdx, setIdx_idx, ht, BitVec.toNat_add, BitVec.toNat_ofNat]
  omega

theorem regNumber_ea_sub (s : State) (k : Nibble) : regNumber (s.ea k.val - s.ea 0) = k := by
  have hk : s.ea k.val - s.ea 0 = k.val := by simp [State.ea]
  rw [hk]
  exact Fin.ext (regNumber_val k.isLt)

/-- Settles O42: the run's bytes are those at `I + k`, and an address in the run is some `I + k`. -/
theorem registersAreStoredInOrder : Obligations.RegistersAreStoredInOrder := by
  intro x s h
  have hread := storeRun_byteAt (s.ea 0) s (x.val + 1) (by omega) (by simp only [State.ea]; omega)
  refine ⟨_, checked_of_le s _ h, fun k hk => ?_, fun a ha => ?_,
    bumpIdx_advance_frame h (storeRun_sameBut _ _ s) (by decide) (by decide)⟩
  · have hkx : k.val ≤ x.val := hk
    have hin : s.ea 0 ≤ s.ea k.val ∧ s.ea k.val < s.ea 0 + (x.val + 1) := by simp only [State.ea]; omega
    exact (hread (s.ea k.val)).trans (by rw [if_pos hin, regNumber_ea_sub])
  · have hout : ¬ (s.ea 0 ≤ a ∧ a < s.ea 0 + (x.val + 1)) := fun hin => by
      have hlt : a - s.ea 0 < x.val + 1 := by omega
      refine ha ⟨a - s.ea 0, by omega⟩ (Nat.le_of_lt_succ hlt) ?_
      simp only [State.ea] at hin ⊢
      omega
    exact (hread a).trans (if_neg hout)

/-- Settles O43: `V[k]` comes from `I + k` exactly for the numbers of the run. -/
theorem registersAreLoadedInOrder : Obligations.RegistersAreLoadedInOrder := by
  intro x s h
  have hreg := loadRun_reg (s.ea 0) s (x.val + 1) (by omega)
  refine ⟨_, checked_of_le s _ h, fun k hk => ?_, fun k hk => ?_,
    bumpIdx_advance_frame h (loadRun_sameBut _ _ s) (by decide) (by decide)⟩
  · exact (hreg k).trans (if_pos (Nat.lt_succ_of_le hk))
  · exact (hreg k).trans (if_neg (Nat.not_lt.2 hk))

/-- Settles O45: the load reads at `I + k` what the store put there, and both move `I` equally far. -/
theorem loadRestoresWhatStoreSaved : Obligations.LoadRestoresWhatStoreSaved := by
  intro x s t u h hstore hidx hmem
  obtain ⟨t', ht', hstored, -, htidx, -⟩ := registersAreStoredInOrder x s h
  obtain rfl : t' = t := by cases ht'.symm.trans hstore; rfl
  obtain ⟨r, hr, hloaded, -, hridx, -⟩ := registersAreLoadedInOrder x u (hidx ▸ h)
  have hea (k : Nat) : u.ea k = s.ea k := by simp only [State.ea, hidx]
  refine ⟨r, hr, fun k hk => ?_, BitVec.eq_of_toNat_eq ?_⟩
  · rw [hloaded k hk, hea, hmem, hstored k hk]
  · rw [hridx, htidx, hidx]

end Sys2Proof.Proofs

namespace Sys2Proof.Proofs

open Sys2Proof.Machine Sys2Proof.Laws

/-!
SUPPORT. Proofs of the statements about the display (spec/44_display.md): the clear, and the sprite draw as one toggle of a set of
pixels, composed bit by bit and row by row.
-/

/-! ## Clear (R105) -/

/-- Settles O47: the blank surface has every pixel off, and only the three parts written change. -/
theorem clearTurnsEveryPixelOff : Obligations.ClearTurnsEveryPixelOff := by
  intro s
  exact ⟨_, rfl, blank_get, rfl, rfl, sameBut_append (setFb_setDirty_sameBut s Grid.blank true) (advance_sameBut _)⟩

/-! ## One pixel (R16) -/

theorem get_set (g : Grid) (r c : Nat) (b : Bool) (r' c' : Nat) :
    Grid.get (Grid.set g r c b) r' c' = if (r' = r ∧ c' = c) ∧ r < 32 ∧ c < 64 then b else Grid.get g r' c' := by
  by_cases hin : r < 32 ∧ c < 64
  · obtain rfl | hr := eq_or_ne r' r
    · obtain rfl | hc := eq_or_ne c' c
      · simp [Grid.get, Grid.set, hin]
      · simp [Grid.get, Grid.set, hin, hc, Vector.getElem_set_ne, hc.symm]
    · simp [Grid.get, Grid.set, hin, hr, Vector.getElem_set_ne, hr.symm]
  · simp [Grid.set, hin]

theorem get_of_outside (g : Grid) {r c : Nat} (h : ¬ (r < 32 ∧ c < 64)) : Grid.get g r c = false := dif_neg h

/-! ## Toggling a set of pixels (R106, R108) -/

/-- `e` is `d` with exactly the pixels of `C` toggled; a collision is a pixel of `C` that was on, and something is plotted when `C`
holds a pixel at all. -/
structure Toggles (C : Set (Nat × Nat)) (d e : Drawing) : Prop where
  toggled : ∀ q ∈ C, Grid.get e.fb q.1 q.2 = !Grid.get d.fb q.1 q.2
  kept : ∀ q ∉ C, Grid.get e.fb q.1 q.2 = Grid.get d.fb q.1 q.2
  hit : e.hit = true ↔ d.hit = true ∨ ∃ q ∈ C, Grid.get d.fb q.1 q.2 = true
  plotted : e.plotted = true ↔ d.plotted = true ∨ ∃ q, q ∈ C

theorem toggles_empty (d : Drawing) : Toggles ∅ d d := by
  constructor <;> simp

theorem toggles_plot {r c : Nat} (hr : r < 32) (hc : c < 64) (d : Drawing) : Toggles {(r, c)} d (plot r c d) where
  toggled := by simp [plot, get_set, hr, hc]
  kept := by
    rintro ⟨r', c'⟩ hq
    have hne : ¬ (r' = r ∧ c' = c) := by simpa using hq
    simp [plot, get_set, hne]
  hit := by simp [plot]
  plotted := by simp [plot]

/-- Toggles of sets that share no pixel add up (R107(c)). -/
theorem Toggles.trans {C D : Set (Nat × Nat)} {d e f : Drawing} (h1 : Toggles C d e) (h2 : Toggles D e f)
    (hdisj : ∀ q ∈ C, q ∉ D) : Toggles (C ∪ D) d f where
  toggled q hq := by
    by_cases hC : q ∈ C
    · rw [h2.kept q (hdisj q hC), h1.toggled q hC]
    · rw [h2.toggled q (hq.resolve_left hC), h1.kept q hC]
  kept q hq := by
    obtain ⟨hC, hD⟩ := not_or.1 hq
    rw [h2.kept q hD, h1.kept q hC]
  hit := by
    have hsame : ∀ q ∈ D, Grid.get e.fb q.1 q.2 = Grid.get d.fb q.1 q.2 :=
      fun q hD => h1.kept q fun hC => hdisj q hC hD
    have hD : (∃ q ∈ D, Grid.get e.fb q.1 q.2 = true) ↔ ∃ q ∈ D, Grid.get d.fb q.1 q.2 = true :=
      exists_congr fun q => and_congr_right fun hq => by rw [hsame q hq]
    rw [h2.hit, h1.hit, hD, or_assoc]
    simp only [Set.mem_union, or_and_right, exists_or]
  plotted := by
    rw [h2.plotted, h1.plotted, or_assoc]
    simp only [Set.mem_union, exists_or]

/-! ## The pixels a sprite's bits and rows lie over (R106) -/

/-- The pixels of the surface's row `r` under the set bits `j` of the list. -/
def bitPixels (r ox : Nat) (row : Byte) (js : List Nat) : Set (Nat × Nat) :=
  {q | q.1 = r ∧ q.2 < 64 ∧ ∃ j ∈ js, q.2 = ox + j ∧ spriteBit row j = true}

/-- The pixels of the surface under the sprite rows `i` of the list. -/
def rowPixels (oy ox : Nat) (sprite : Nat → Byte) (is : List Nat) : Set (Nat × Nat) :=
  {q | q.1 < 32 ∧ ∃ i ∈ is, q ∈ bitPixels (oy + i) ox (sprite i) (List.range 8)}

theorem head_le_of_mem {j k : Nat} {js : List Nat} (hs : (j :: js).Pairwise (· < ·)) (hk : k ∈ j :: js) : j ≤ k := by
  obtain rfl | hk := List.mem_cons.1 hk
  · exact Nat.le_refl k
  · exact Nat.le_of_lt (List.rel_of_pairwise_cons hs hk)

/-- A bit past the right edge, and so every later one, lies over no pixel. -/
theorem bitPixels_clipped {r ox : Nat} {row : Byte} {j : Nat} {js : List Nat} (hs : (j :: js).Pairwise (· < ·))
    (h : 64 ≤ ox + j) : bitPixels r ox row (j :: js) = ∅ := by
  refine Set.eq_empty_of_forall_notMem ?_
  rintro q ⟨-, hlt, k, hk, hq, -⟩
  have := head_le_of_mem hs hk
  omega

theorem bitPixels_cons {r ox : Nat} {row : Byte} {j : Nat} {js : List Nat} (h : ox + j < 64) :
    bitPixels r ox row (j :: js) = (if spriteBit row j then {(r, ox + j)} else ∅) ∪ bitPixels r ox row js := by
  ext ⟨r', c'⟩
  have hhead : (r' = r ∧ c' = ox + j) → c' < 64 := fun hq => hq.2 ▸ h
  by_cases hb : spriteBit row j = true
  · simp only [bitPixels, hb, if_true, Set.mem_ofPred_eq, Set.mem_union, Set.mem_singleton_iff, Prod.mk.injEq, List.mem_cons,
      exists_eq_or_imp]
    tauto
  · simp [bitPixels, hb]

theorem not_mem_bitPixels_tail {r ox : Nat} {row : Byte} {j : Nat} {js : List Nat} (hs : (j :: js).Pairwise (· < ·)) :
    (r, ox + j) ∉ bitPixels r ox row js := by
  rintro ⟨-, -, k, hk, hq, -⟩
  have := List.rel_of_pairwise_cons hs hk
  simp only at hq
  omega

/-- A row past the bottom edge, and so every later one, lies over no pixel. -/
theorem rowPixels_clipped {oy ox : Nat} {sprite : Nat → Byte} {i : Nat} {is : List Nat} (hs : (i :: is).Pairwise (· < ·))
    (h : 32 ≤ oy + i) : rowPixels oy ox sprite (i :: is) = ∅ := by
  refine Set.eq_empty_of_forall_notMem ?_
  rintro q ⟨hlt, k, hk, hq, -⟩
  have := head_le_of_mem hs hk
  omega

theorem rowPixels_cons {oy ox : Nat} {sprite : Nat → Byte} {i : Nat} {is : List Nat} (h : oy + i < 32) :
    rowPixels oy ox sprite (i :: is) = bitPixels (oy + i) ox (sprite i) (List.range 8) ∪ rowPixels oy ox sprite is := by
  ext q
  have hrow : q ∈ bitPixels (oy + i) ox (sprite i) (List.range 8) → q.1 < 32 := fun hq => hq.1 ▸ h
  simp only [rowPixels, Set.mem_ofPred_eq, Set.mem_union, List.mem_cons, exists_eq_or_imp]
  tauto

/-- Different sprite rows lie over different rows of the surface. -/
theorem not_mem_rowPixels_of_mem_bitPixels {oy ox : Nat} {sprite : Nat → Byte} {i : Nat} {is : List Nat}
    (hs : (i :: is).Pairwise (· < ·)) {row : Byte} {js : List Nat} {q : Nat × Nat} (hq : q ∈ bitPixels (oy + i) ox row js) :
    q ∉ rowPixels oy ox sprite is := by
  rintro ⟨-, k, hk, hqk, -⟩
  have := List.rel_of_pairwise_cons hs hk
  have := hq.1
  omega

/-! ## What drawing bits, rows and a whole sprite toggles (R106) -/

theorem drawBits_toggles {r : Nat} (hr : r < 32) (ox : Nat) (row : Byte) (js : List Nat) (hs : js.Pairwise (· < ·))
    (d : Drawing) : Toggles (bitPixels r ox row js) d (drawBits r ox row js d) := by
  induction js generalizing d with
  | nil => simpa [bitPixels, drawBits] using toggles_empty d
  | cons j js ih =>
    rw [drawBits]
    split
    · next hclip =>
      rw [bitPixels_clipped hs hclip]
      exact toggles_empty d
    · next hin =>
      have hc : ox + j < 64 := Nat.lt_of_not_le hin
      rw [bitPixels_cons hc]
      refine Toggles.trans ?_ (ih (List.Pairwise.of_cons hs) _) ?_
      · split
        · exact toggles_plot hr hc d
        · exact toggles_empty d
      · split
        · rintro q rfl
          exact not_mem_bitPixels_tail hs
        · exact fun _ h => h.elim

theorem drawRows_toggles (oy ox : Nat) (sprite : Nat → Byte) (is : List Nat) (hs : is.Pairwise (· < ·)) (d : Drawing) :
    Toggles (rowPixels oy ox sprite is) d (drawRows oy ox sprite is d) := by
  induction is generalizing d with
  | nil => simpa [rowPixels, drawRows] using toggles_empty d
  | cons i is ih =>
    rw [drawRows]
    split
    · next hclip =>
      rw [rowPixels_clipped hs hclip]
      exact toggles_empty d
    · next hin =>
      have hr : oy + i < 32 := Nat.lt_of_not_le hin
      rw [rowPixels_cons hr]
      exact (drawBits_toggles hr ox (sprite i) _ List.pairwise_lt_range d).trans (ih (List.Pairwise.of_cons hs) _)
        fun q hq => not_mem_rowPixels_of_mem_bitPixels hs hq

/-- The pixels of the surface that a set bit of the sprite covers. -/
def coveredPixels (x y n : Nibble) (s : State) : Set (Nat × Nat) :=
  {q | q.1 < 32 ∧ q.2 < 64 ∧ Covers x y n s q.1 q.2}

theorem rowPixels_eq_coveredPixels (x y n : Nibble) (s : State) :
    rowPixels (s.originRow y) (s.originCol x) (fun i => s.byteAt (s.ea i)) (List.range n.val) = coveredPixels x y n s := by
  ext q
  simp only [rowPixels, bitPixels, coveredPixels, Covers, State.originRow, State.originCol, State.ea, spriteBit,
    Set.mem_ofPred_eq, List.mem_range]
  constructor
  · rintro ⟨hr, i, hi, hrow, hc, j, hj, hcol, hbit⟩
    exact ⟨hr, hc, i, j, hi, hj, hrow, hcol, hbit⟩
  · rintro ⟨hr, hc, i, j, hi, hj, hrow, hcol, hbit⟩
    exact ⟨hr, i, hi, hrow, hc, j, hj, hcol, hbit⟩

theorem drawSprite_toggles (x y n : Nibble) (s : State) :
    Toggles (coveredPixels x y n s) ⟨s.fb, false, false⟩ (drawSprite x y n s) :=
  rowPixels_eq_coveredPixels x y n s ▸ drawRows_toggles _ _ _ _ List.pairwise_lt_range _

/-! ## The state a draw leaves -/

theorem drawn_flag (x y n : Nibble) (s : State) : (drawn x y n s).reg 15 = flag (drawSprite x y n s).hit := by
  rw [drawn, advance_reg, setVF_reg_flag]

theorem drawn_regs (x y n : Nibble) (s : State) : RegsSameBut [15] s (drawn x y n s) := by
  intro z hz
  rw [drawn, advance_reg, setVF_reg_other _ _ (by simpa using hz)]
  rfl

theorem drawSprite_hit_iff (x y n : Nibble) (s : State) : (drawSprite x y n s).hit = true ↔
    ∃ r c : Nat, r < 32 ∧ c < 64 ∧ Covers x y n s r c ∧ s.pixel r c = true := by
  simp [(drawSprite_toggles x y n s).hit, coveredPixels, State.pixel, and_assoc]

theorem drawn_dirty_iff (x y n : Nibble) (s : State) : (drawn x y n s).dirty = true ↔
    s.dirty = true ∨ ∃ r c : Nat, r < 32 ∧ c < 64 ∧ Covers x y n s r c := by
  simp [drawn, (drawSprite_toggles x y n s).plotted, coveredPixels]

/-- Settles O48: the draw toggles the covered pixels of the surface and no other. -/
theorem drawXorsTheSpriteOntoTheSurface : Obligations.DrawXorsTheSpriteOntoTheSurface := by
  intro x y n s h
  have htoggles := drawSprite_toggles x y n s
  refine ⟨_, execDrwVxVyN_of_le x y h, fun r c hr hc => ⟨fun hcov => ?_, fun hcov => ?_⟩, fun hon => ?_, fun hoff => ?_,
    drawn_dirty_iff x y n s, drawn_regs x y n s, rfl, drawn_sameBut x y n s⟩
  · exact htoggles.toggled (r, c) ⟨hr, hc, hcov⟩
  · exact htoggles.kept (r, c) fun ⟨_, _, hcov'⟩ => hcov hcov'
  · rw [drawn_flag, (drawSprite_hit_iff x y n s).2 hon]
    rfl
  · rw [drawn_flag, Bool.eq_false_iff.2 (mt (drawSprite_hit_iff x y n s).1 hoff)]
    rfl

/-! ## Drawing twice (R107) -/

/-- The pixels covered depend on the origin registers, `I` and memory only. -/
theorem covers_congr {x y n : Nibble} {s t : State} (hx : t.reg x = s.reg x) (hy : t.reg y = s.reg y) (hidx : t.idx = s.idx)
    (hmem : ∀ a : Nat, t.byteAt a = s.byteAt a) (r c : Nat) : Covers x y n t r c ↔ Covers x y n s r c := by
  simp only [Covers, hx, hy, hidx, hmem]

/-- Settles O49: the first draw leaves the origin, `I` and the sprite, so the second toggles the same pixels back. -/
theorem drawingTwiceRestoresTheSurface : Obligations.DrawingTwiceRestoresTheSurface := by
  intro x y n s t hx hy h hdraw
  obtain ⟨t', ht', hfirst, -, -, -, hregs, -, hframe⟩ := drawXorsTheSpriteOntoTheSurface x y n s h
  obtain rfl : t' = t := by cases ht'.symm.trans hdraw; rfl
  have hidx : t'.idx = s.idx := hframe .idx (by decide)
  have hcov := covers_congr (n := n) (hregs x (by simpa using hx)) (hregs y (by simpa using hy)) hidx
    (hframe .mem (by decide))
  obtain ⟨u, hu, hsecond, hon, hoff, -⟩ := drawXorsTheSpriteOntoTheSurface x y n t' (hidx ▸ h)
  simp only [hcov] at hsecond hon hoff
  refine ⟨u, hu, fun r c => ?_, fun hvf => ?_, hon⟩
  · by_cases hin : r < 32 ∧ c < 64
    · obtain ⟨hr, hc⟩ := hin
      by_cases hcs : Covers x y n s r c
      · rw [(hsecond r c hr hc).1 hcs, (hfirst r c hr hc).1 hcs, Bool.not_not]
      · rw [(hsecond r c hr hc).2 hcs, (hfirst r c hr hc).2 hcs]
    · exact (get_of_outside u.fb hin).trans (get_of_outside s.fb hin).symm
  · by_contra hno
    exact absurd (hvf.symm.trans (hoff hno)) (by decide)

end Sys2Proof.Proofs

namespace Sys2Proof.Proofs

open Sys2Proof.Machine Sys2Proof.Laws

/-!
SUPPORT. Proofs of the statements about the keypad and the timers (spec/45_keypad_and_timers.md): the two skips on the key latch,
the three moves of a timer byte, and the beginning of a key wait.
-/

/-! ## Skips on a key (R115, R116) -/

/-- With a legal key number in `Vx`, the continuation runs on that key. -/
theorem withKey_of_key {x k : Nibble} {s : State} (h : (s.reg x).toNat = k.val) (f : Nibble → Result) :
    withKey x s f = f k := by
  have hlt : (s.reg x).toNat < 16 := h ▸ k.isLt
  have hk : ⟨(s.reg x).toNat, hlt⟩ = k := Fin.ext h
  rw [withKey, dif_pos hlt, hk]

/-- Settles O50: each is one skip, on the latch of the key named or on its negation. -/
theorem keySkipsReadTheLatch : Obligations.KeySkipsReadTheLatch := by
  intro x k s hkey
  have hskp : exec (.skpVx x) s = .next (s.skipIf (s.keyDown k)) :=
    withKey_of_key hkey fun j => .next (s.skipIf (s.keyDown j))
  have hsknp : exec (.sknpVx x) s = .next (s.skipIf (!s.keyDown k)) :=
    withKey_of_key hkey fun j => .next (s.skipIf (!s.keyDown j))
  constructor
  · exact ⟨_, hskp, skipIf_sameBut s _, fun hdown => by simp [hdown], fun hup => by simp [hup]⟩
  · exact ⟨_, hsknp, skipIf_sameBut s _, fun hup => by simp [hup], fun hdown => by simp [hdown]⟩

/-! ## One byte moved to or from a timer (R118 to R120) -/

/-- Settles O52: each word is its format's number, and each instruction is one write and `pc + 2`. -/
theorem timerInstructionsMoveOneByte : Obligations.TimerInstructionsMoveOneByte := by
  intro x s
  have hword (kk : Byte) : (formatXKK 0xF x kk).toNat = 0xF000 + kk.toNat + 256 * x.val := by
    rw [formatXKK_toNat, Nat.add_right_comm]; rfl
  refine ⟨hword 0x07, hword 0x15, hword 0x18, ?_, ?_, ?_⟩
  · exact ⟨_, rfl, setReg_reg_same s x s.dt, setReg_advance_frame s x s.dt⟩
  · exact ⟨_, rfl, rfl, rfl, sameBut_append (setDt_sameBut s _) (advance_sameBut _)⟩
  · exact ⟨_, rfl, rfl, rfl, sameBut_append (setSt_sameBut s _) (advance_sameBut _)⟩

/-! ## The key wait begins (R117, part 1) -/

/-- Settles O53: one write of `WAIT` and one of `WREG`, and no `pc + 2`. -/
theorem keyWaitBegins : Obligations.KeyWaitBegins := by
  intro x s
  exact ⟨_, rfl, rfl, rfl, sameBut_append (setWait_sameBut s true) (setWreg_sameBut _ x)⟩

end Sys2Proof.Proofs


namespace Sys2Proof.Proofs

open Sys2Proof.Machine Sys2Proof.Laws

/-!
SUPPORT. Proofs of the statements about exceptions and the other agents (spec/60_exceptions.md): raising a fatal error, how one is
left, and the commands `SetKey`, `Tick` and `Render`.
-/

/-! ## Raising a fatal error (R130, R140) -/

/-- Settles O17: under its condition an instruction answers the old state with the code in `ERR`. -/
theorem raiseWritesOnlyTheErrorCode : Obligations.RaiseWritesOnlyTheErrorCode := by
  intro i s h
  exact exec_raises rfl h

/-- Settles O27: each bound of the stack is its instruction's condition in R130's table. -/
theorem stackBoundsRaise : Obligations.StackBoundsRaise := by
  refine ⟨fun nnn s h => ?_, fun s h => ?_⟩
  · exact exec_raises (i := .callNnn nnn) (if_pos (beq_iff_eq.2 h)) (by decide)
  · exact exec_raises (i := .ret) (if_pos (beq_iff_eq.2 h)) (by decide)

/-- Settles O51: the key number's bound is the condition of both skips in R130's table. -/
theorem keyNumberAboveFifteenRaises : Obligations.KeyNumberAboveFifteenRaises := by
  intro x s h
  constructor
  · exact exec_raises (i := .skpVx x) (if_pos (decide_eq_true h)) (by decide)
  · exact exec_raises (i := .sknpVx x) (if_pos (decide_eq_true h)) (by decide)

/-! ## A step that takes its command off the queue (log 3) -/

/-- The state a pending command is performed in: only the commands after it are left in the queue. -/
def dequeued (rest : List Command) (s : State) : State := { s with pending := rest }

theorem step_of_pending {s : State} {c : Command} {rest : List Command} (h : s.pending = c :: rest) :
    step s = perform c (dequeued rest s) :=
  step_pending h

theorem dequeued_sameBut (rest : List Command) (s : State) : SameBut [.pending] s (dequeued rest s) := by
  intro p hp; cases p <;> simp_all [Part.Same, dequeued, State.reg, State.keyDown, State.byteAt, State.pixel]

/-- The frame of a step: its command's, and the queue. -/
theorem sameBut_of_dequeued {ps : List Part} {s t : State} {rest : List Command}
    (h : SameBut ps (dequeued rest s) t) : SameBut (.pending :: ps) s t :=
  sameBut_append (dequeued_sameBut rest s) h

/-! ## `SetKey` (R146) -/

/-- The press edge in a wait does both: it sets the latch and completes the wait (R117, part 2). -/
theorem setKey_of_edge_in_wait {k : Nibble} {s : State} (hk : s.keyDown k = false) (hw : s.wait = true) :
    setKey k true s = completeWait k { s with key := s.key.set k.val true } := by
  simp [setKey, hk, hw]

theorem setKey_of_held {k : Nibble} {s : State} (hk : s.keyDown k = true) : setKey k true s = s := by
  simp [setKey, hk]

/-- Unless it is a press edge in a wait, a `SetKey` changes the latch only. -/
theorem setKey_sameBut_key {k : Nibble} {p : Bool} {s : State} (h : p = true → s.keyDown k = false → s.wait = false) :
    SameBut [.key] s (setKey k p s) := by
  obtain ⟨hp, hk, hw, -⟩ | ⟨-, -, -, e⟩ | ⟨-, -, e⟩ | ⟨-, e⟩ := setKey_cases k p s
  · simp [h hp hk] at hw
  all_goals rw [e]
  · exact setLatch_sameBut s _
  · exact sameBut_refl _ s
  · exact setLatch_sameBut s _

theorem setKey_keyDown_same (k : Nibble) (p : Bool) (s : State) : (setKey k p s).keyDown k = p := by
  simp [setKey_keyDown]

theorem setKey_keyDown_other {j k : Nibble} (h : j ≠ k) (p : Bool) (s : State) :
    (setKey k p s).keyDown j = s.keyDown j := by
  simp [setKey_keyDown, h.symm]

theorem keyByte_toNat (k : Nibble) : (keyByte k).toNat = k.val :=
  BitVec.toNat_ofNat k.val 8 ▸ Nat.mod_eq_of_lt (by omega)

/-- Completing a wait puts the key's number in the register latched, and writes no other register (R117). -/
theorem completeWait_reg_wreg (k : Nibble) (s : State) : ((completeWait k s).reg s.wreg).toNat = k.val :=
  (congrArg BitVec.toNat (setReg_reg_same s s.wreg (keyByte k))).trans (keyByte_toNat k)

theorem completeWait_regs (k : Nibble) (s : State) : RegsSameBut [s.wreg] s (completeWait k s) :=
  regsSameBut_setReg (regsSameBut_refl _ s) (by simp) (keyByte k)

/-- Settles O54: the latch is as written in every case, and only the press edge in a wait writes more. -/
theorem setKeyByCase : Obligations.SetKeyByCase := by
  intro s k p rest hp
  have hothers : ∀ j : Nibble, j ≠ k → (setKey k p (dequeued rest s)).keyDown j = s.keyDown j :=
    fun j hj => setKey_keyDown_other hj p _
  refine ⟨setKey k p (dequeued rest s), step_of_pending hp, setKey_sameBut k p _ .pending (by decide), ?_, ?_, ?_, ?_⟩
  · rintro rfl hk hw
    have hframe := sameBut_of_dequeued (setKey_sameBut k true (dequeued rest s))
    refine ⟨setKey_keyDown_same k true _, hothers, ?_⟩
    rw [setKey_of_edge_in_wait (s := dequeued rest s) hk hw] at hframe ⊢
    exact ⟨completeWait_reg_wreg k _, completeWait_regs k _, rfl, rfl, sameBut_mono hframe (by decide)⟩
  · rintro rfl - hw
    exact ⟨setKey_keyDown_same k true _, hothers,
      sameBut_mono (sameBut_of_dequeued (setKey_sameBut_key fun _ _ => hw)) (by decide)⟩
  · rintro rfl hk
    rw [setKey_of_held (s := dequeued rest s) hk]
    exact dequeued_sameBut rest s
  · rintro rfl
    exact ⟨setKey_keyDown_same k false _, hothers,
      sameBut_mono (sameBut_of_dequeued (setKey_sameBut_key (by simp))) (by decide)⟩

/-! ## `Tick` (R144) -/

/-- A counter at 0 stays there, as truncated subtraction does. -/
theorem countDown_toNat (u : Byte) : (countDown u).toNat = u.toNat - 1 := by
  unfold countDown
  split
  · next h => simp [h]
  · next h => bv_omega

theorem tick_of_loaded {s : State} (h : s.run = true) : tick s = { s with dt := countDown s.dt, st := countDown s.st } :=
  if_pos h

theorem tick_of_unloaded {s : State} (h : s.run = false) : tick s = s := by
  simp [tick, h]

/-- Settles O55: `RUN` decides between two counts and none. -/
theorem tickCountsBothTimersDown : Obligations.TickCountsBothTimersDown := by
  intro s rest hp
  refine ⟨tick (dequeued rest s), step_of_pending hp, tick_sameBut _ .pending (by decide),
    sameBut_mono (sameBut_of_dequeued (tick_sameBut _)) (by decide), fun hrun => ?_, fun hrun => ?_⟩
  · rw [tick_of_loaded (s := dequeued rest s) hrun]
    exact ⟨countDown_toNat s.dt, countDown_toNat s.st⟩
  · rw [tick_of_unloaded (s := dequeued rest s) hrun]
    exact ⟨rfl, rfl⟩

/-! ## `Render` (R147) -/

theorem render_of_dirty {s : State} (h : s.dirty = true) :
    render s = { s with dirty := false, outputs := .frame s.fb :: s.outputs } :=
  if_pos h

theorem render_of_clean {s : State} (h : s.dirty = false) : render s = s := by
  simp [render, h]

/-- Whatever it was, `DIRTY` is 0 once rendered. -/
theorem render_dirty (s : State) : (render s).dirty = false := by
  cases h : s.dirty with
  | true => rw [render_of_dirty h]
  | false => rw [render_of_clean h, h]

/-- Settles O56: `DIRTY` decides between one frame and none. -/
theorem renderOutputsADirtySurface : Obligations.RenderOutputsADirtySurface := by
  intro s rest hp
  refine ⟨render (dequeued rest s), step_of_pending hp, render_sameBut _ .pending (by decide), render_dirty _,
    sameBut_mono (sameBut_of_dequeued (render_sameBut _)) (by decide), fun hd => ?_, fun hd => ?_⟩
  · rw [render_of_dirty (s := dequeued rest s) hd]; rfl
  · rw [render_of_clean (s := dequeued rest s) hd]; rfl

/-! ## How a fatal error is left (R140, R141) -/

/-- While `ERR` is set and no wait is on, a command clears it as `Reset` or `Load`, or leaves all but the timers, the latch,
`DIRTY` and the outputs: a `Cycle` is gated, and no `SetKey` completes a wait. -/
theorem perform_of_stopped {c : Command} {s t : State} (h : perform c s = .next t) (herr : s.err ≠ .none)
    (hw : s.wait = false) :
    (t.err = .none ∧ (c = .reset ∨ ∃ bytes, c = .load bytes)) ∨ SameBut [.dt, .st, .key, .dirty, .outputs] s t := by
  cases c with
  | cycle =>
    cases (cycle_of_gated (gated_eq_true.2 (.inr (.inl herr)))).symm.trans h
    exact .inr (sameBut_refl _ s)
  | tick => cases h; exact .inr (sameBut_mono (tick_sameBut s) (by decide))
  | render => cases h; exact .inr (sameBut_mono (render_sameBut s) (by decide))
  | setKey k p => cases h; exact .inr (sameBut_mono (setKey_sameBut_key fun _ _ => hw) (by decide))
  | load bytes => cases h; exact .inl ⟨rfl, .inr ⟨bytes, rfl⟩⟩
  | reset => cases h; exact .inl ⟨rfl, .inl rfl⟩

/-- Settles O19: a step performs one command, and one that clears `ERR` stood at the head of the queue. -/
theorem fatalErrorIsLeftOnlyByResetOrLoad : Obligations.FatalErrorIsLeftOnlyByResetOrLoad := by
  intro s t herr hw h
  obtain ⟨c, rest, hc, hp⟩ := step_performs h
  obtain ⟨hclear, rfl | ⟨bytes, rfl⟩⟩ | hframe := perform_of_stopped hc herr hw
  · exact .inl ⟨hclear, .inl (hp.resolve_right (by simp))⟩
  · exact .inl ⟨hclear, .inr ⟨bytes, hp.resolve_right (by simp)⟩⟩
  · exact .inr (sameBut_mono (sameBut_of_dequeued hframe) (by decide))

end Sys2Proof.Proofs

namespace Sys2Proof.Proofs

open Sys2Proof.Machine Sys2Proof.Laws

/-!
SUPPORT. Proofs of the statements about the host's commands `Reset` and `Load` (spec/70_reset_and_hazards.md). Each is compared
with the state at power-on, so R25's values are not listed a second time.
-/

/-! ## `Reset` (R160) -/

/-- Settles O57: the parts a `Reset` writes are those of power-on, the rest it keeps. -/
theorem resetCommandRestoresAllButTheKeys : Obligations.ResetCommandRestoresAllButTheKeys := by
  intro s rest hp
  obtain ⟨hreg, hidx, hpc, hstack, hsp, hdt, hst, hfont, hzero, hpixel, hdirty, -, hrun, hwait, hwreg, herr, htrunc⟩ :=
    powerOnHoldsTheResetValues
  have hkeys (k : Nibble) : (resetBlock (dequeued rest s)).keyDown k = s.keyDown k := rfl
  exact ⟨resetBlock (dequeued rest s), step_of_pending hp, rfl, rfl, rfl, hkeys, hreg, hidx, hpc, hstack, hsp, hdt, hst,
    hfont, hzero, hpixel, hdirty, hrun, hwait, hwreg, herr, htrunc⟩

/-! ## `Load` (R162, R163) -/

/-- A loaded engine differs from one at power-on in `MEM`, `TRUNC`, `RUN` and in what a `Reset` keeps. -/
theorem load_sameBut_reset (bytes : List Byte) (s : State) :
    SameBut [.mem, .trunc, .run, .key, .pending, .draws, .outputs] State.reset (load bytes s) := by
  intro p hp; cases p <;> simp_all [Part.Same, load, resetBlock, State.reg, State.pixel]

/-- Cutting a ROM to the size accepted keeps every byte below the cut (R163). -/
theorem getD_take_of_lt (bytes : List Byte) {i n : Nat} (h : i < n) : (bytes.take n).getD i 0 = bytes.getD i 0 := by
  simp [List.getD_eq_getElem?_getD, List.getElem?_take_of_lt h]

/-- Memory after a `Load`: the accepted part of the ROM from 0x200 on, every other byte as at power-on. -/
theorem load_byteAt (bytes : List Byte) (s : State) (a : Nat) :
    (load bytes s).byteAt a =
      if 0x200 ≤ a ∧ a < 0x200 + min bytes.length 3584 then bytes.getD (a - 0x200) 0 else State.reset.byteAt a := by
  have hlen : (bytes.take 3584).length = min bytes.length 3584 := by rw [List.length_take, Nat.min_comm]
  have hread : (load bytes s).byteAt a = (copyBytes 0x200 (bytes.take 3584) State.reset.mem).read a := rfl
  rw [hread, read_copyBytes _ _ _ _ (by omega), hlen]
  exact if_ctx_congr Iff.rfl (fun hrom => getD_take_of_lt bytes (by omega)) fun _ => rfl

theorem load_byteAt_rom {bytes : List Byte} {i : Nat} (hi : i < bytes.length) (hmax : i < 3584) (s : State) :
    (load bytes s).byteAt (0x200 + i) = bytes.getD i 0 := by
  rw [load_byteAt, if_pos (by omega), Nat.add_sub_cancel_left]

theorem load_byteAt_outside {bytes : List Byte} {a : Nat} (ha : a < 0x200 ∨ 0x200 + min bytes.length 3584 ≤ a) (s : State) :
    (load bytes s).byteAt a = State.reset.byteAt a := by
  rw [load_byteAt, if_neg (by omega)]

/-- Only a ROM larger than the room for it is reported as cut (R163, D15). -/
theorem load_trunc_iff (bytes : List Byte) (s : State) : (load bytes s).trunc = true ↔ 3584 < bytes.length :=
  decide_eq_true_iff

/-- Settles O58: memory by the place of the byte, all else as power-on or the old state has it. -/
theorem loadCopiesTheRomAndRuns : Obligations.LoadCopiesTheRomAndRuns := by
  intro s bytes rest hp
  have hkeys (k : Nibble) : (load bytes (dequeued rest s)).keyDown k = s.keyDown k := rfl
  exact ⟨load bytes (dequeued rest s), step_of_pending hp, rfl, fun _ hi hmax => load_byteAt_rom hi hmax _,
    fun _ ha => load_byteAt_outside ha _, load_trunc_iff bytes _, rfl, hkeys, rfl, rfl, load_sameBut_reset bytes _⟩

end Sys2Proof.Proofs
